-- ==== Sys2Proof/Word.lean ====
section
/-! DEFINITION. The widths of the block: the 8-bit character (00_scope.md R13) and the 64-bit container of a
value or field register (10_state.md R27, R28). -/

namespace Sys2Proof

/-- One character of a frame or string: an 8-bit value (00_scope.md R13, `CHAR_BITS` of R10). -/
abbrev Byte := BitVec 8

/-- The 64-bit container of `VAL`, `M.MAC` and every `F[i]` (10_state.md R26 to R28). -/
abbrev Word := BitVec 64

end Sys2Proof
end

