-- ==== Sys2Proof/Syntax.lean ====
section
/-! DEFINITION. The syntax of the block: the 23 message variants (30_encoding.md R80), the payload grammars
(R73 to R79), the 39 instructions of spec/opcode_table.json and the input record a command takes
(00_scope.md R9, 30_encoding.md R90). -/

namespace Sys2Proof

/-- The variant tag, `M.TAG`: the closed set of 23 message variants, in the order of 30_encoding.md R80. -/
inductive Tag where
  | clockGetReq
  | clockGetResp
  | deviceInfoReq
  | deviceInfoResp
  | lightCalibrationReq
  | moduleJoinedNetworkReq
  | networkResetReq
  | networkStatusReq
  | nodeAvailableReq
  | nodeAvailableResp
  | pingReq
  | powerBufferReq
  | powerCalibrationReq
  | powerCalibrationResp
  | powerChangeReq
  | powerInfoReq
  | powerInfoResp
  | powerLogIntervalSetReq
  | rtcGetReq
  | roleCallReq
  | senseReportReq
  | sleepSetReq
  | broadcastGroupSwitchResp
deriving DecidableEq, Repr

/-- The 23 tags in the order of 30_encoding.md R80. -/
def Tag.all : List Tag :=
  [.clockGetReq, .clockGetResp, .deviceInfoReq, .deviceInfoResp, .lightCalibrationReq, .moduleJoinedNetworkReq, .networkResetReq, .networkStatusReq,
   .nodeAvailableReq, .nodeAvailableResp, .pingReq, .powerBufferReq, .powerCalibrationReq, .powerCalibrationResp, .powerChangeReq, .powerInfoReq,
   .powerInfoResp, .powerLogIntervalSetReq, .rtcGetReq, .roleCallReq, .senseReportReq, .sleepSetReq, .broadcastGroupSwitchResp]

/-- A table with one entry for each variant tag: the shape of the constant tables `REG` and `VT`
(10_state.md R30, R31), 23 rows each. -/
structure TagTable (α : Type) where
  clockGetReq : α
  clockGetResp : α
  deviceInfoReq : α
  deviceInfoResp : α
  lightCalibrationReq : α
  moduleJoinedNetworkReq : α
  networkResetReq : α
  networkStatusReq : α
  nodeAvailableReq : α
  nodeAvailableResp : α
  pingReq : α
  powerBufferReq : α
  powerCalibrationReq : α
  powerCalibrationResp : α
  powerChangeReq : α
  powerInfoReq : α
  powerInfoResp : α
  powerLogIntervalSetReq : α
  rtcGetReq : α
  roleCallReq : α
  senseReportReq : α
  sleepSetReq : α
  broadcastGroupSwitchResp : α
deriving DecidableEq, Repr

/-- The row of a tag. -/
def TagTable.get {α : Type} (r : TagTable α) : Tag → α
  | .clockGetReq => r.clockGetReq
  | .clockGetResp => r.clockGetResp
  | .deviceInfoReq => r.deviceInfoReq
  | .deviceInfoResp => r.deviceInfoResp
  | .lightCalibrationReq => r.lightCalibrationReq
  | .moduleJoinedNetworkReq => r.moduleJoinedNetworkReq
  | .networkResetReq => r.networkResetReq
  | .networkStatusReq => r.networkStatusReq
  | .nodeAvailableReq => r.nodeAvailableReq
  | .nodeAvailableResp => r.nodeAvailableResp
  | .pingReq => r.pingReq
  | .powerBufferReq => r.powerBufferReq
  | .powerCalibrationReq => r.powerCalibrationReq
  | .powerCalibrationResp => r.powerCalibrationResp
  | .powerChangeReq => r.powerChangeReq
  | .powerInfoReq => r.powerInfoReq
  | .powerInfoResp => r.powerInfoResp
  | .powerLogIntervalSetReq => r.powerLogIntervalSetReq
  | .rtcGetReq => r.rtcGetReq
  | .roleCallReq => r.roleCallReq
  | .senseReportReq => r.senseReportReq
  | .sleepSetReq => r.sleepSetReq
  | .broadcastGroupSwitchResp => r.broadcastGroupSwitchResp

/-- The table whose row for each tag is given. -/
def TagTable.ofFn {α : Type} (f : Tag → α) : TagTable α where
  clockGetReq := f .clockGetReq
  clockGetResp := f .clockGetResp
  deviceInfoReq := f .deviceInfoReq
  deviceInfoResp := f .deviceInfoResp
  lightCalibrationReq := f .lightCalibrationReq
  moduleJoinedNetworkReq := f .moduleJoinedNetworkReq
  networkResetReq := f .networkResetReq
  networkStatusReq := f .networkStatusReq
  nodeAvailableReq := f .nodeAvailableReq
  nodeAvailableResp := f .nodeAvailableResp
  pingReq := f .pingReq
  powerBufferReq := f .powerBufferReq
  powerCalibrationReq := f .powerCalibrationReq
  powerCalibrationResp := f .powerCalibrationResp
  powerChangeReq := f .powerChangeReq
  powerInfoReq := f .powerInfoReq
  powerInfoResp := f .powerInfoResp
  powerLogIntervalSetReq := f .powerLogIntervalSetReq
  rtcGetReq := f .rtcGetReq
  roleCallReq := f .roleCallReq
  senseReportReq := f .senseReportReq
  sleepSetReq := f .sleepSetReq
  broadcastGroupSwitchResp := f .broadcastGroupSwitchResp

/-- `REG`: the type code of each variant (10_state.md R30). -/
abbrev Registry := TagTable (BitVec 16)

/-- The widths a `U(w)` field may have, in hex digits (30_encoding.md R73). -/
inductive UWidth where
  | w2
  | w4
  | w8
  | w16
deriving DecidableEq, Repr

/-- The kind of one payload field (30_encoding.md R73). -/
inductive Kind where
  | u (w : UWidth)
  | mac
  | f32
  | bool
  | durS2
  | durM4
  | pbaddr
deriving DecidableEq, Repr

/-- The direction of a variant: `BOTH`, or `TX` for "outbound only" (30_encoding.md R80). -/
inductive Dir where
  | both
  | tx
deriving DecidableEq, Repr

/-- A payload grammar in full: direction, MAC attribute and field list, the three items of the parameter
`G(tag)` (44_payload_grammars.md R230). -/
structure Grammar where
  dir : Dir
  hasMac : Bool
  fields : List Kind
deriving DecidableEq, Repr

/-- One row of the variant table (10_state.md R31). An attribute that is `none` is an OPEN cell of
30_encoding.md R80 whose parameter has not been supplied. -/
structure VtRow where
  seqRx : Bool
  seqTx : Bool
  dir : Option Dir
  hasMac : Option Bool
  fields : Option (List Kind)
deriving DecidableEq, Repr

/-- The grammar of a row, when every attribute of it is known (`G(t)` is supplied, 42_registry.md R153). -/
def VtRow.grammar (r : VtRow) : Option Grammar :=
  match r.dir, r.hasMac, r.fields with
  | some d, some m, some ks => some { dir := d, hasMac := m, fields := ks }
  | _, _, _ => none

/-- `VT`: the row of each variant (10_state.md R31). -/
abbrev VariantTable := TagTable VtRow

/-- What is done with a message of a given variant: the three commands of the FRAME unit, each of which selects
a variant by its type code or tag (30_encoding.md R90: `FRM.ENCODE`, `FRM.PARSE`, `MSG.DECODE`). -/
inductive MsgOp where
  | encode
  | parse
  | decode
deriving DecidableEq, Repr

/-- The instructions: the 16 commands of 30_encoding.md R90, whose operands are registers, and the 23 message
variants of R80 (log 10). One constructor per row of spec/opcode_table.json, in its order. -/
inductive Instr where
  | hexEncu
  | hexDecu
  | hexEncf32
  | hexDecf32
  | hexEncds
  | hexDecds
  | hexEncdm
  | hexDecdm
  | hexEncmac
  | hexDecmac
  | crcCompute
  | regFromcode
  | regTocode
  | frmEncode
  | frmParse
  | msgDecode
  | clockGetReq (op : MsgOp)
  | clockGetResp (op : MsgOp)
  | deviceInfoReq (op : MsgOp)
  | deviceInfoResp (op : MsgOp)
  | lightCalibrationReq (op : MsgOp)
  | moduleJoinedNetworkReq (op : MsgOp)
  | networkResetReq (op : MsgOp)
  | networkStatusReq (op : MsgOp)
  | nodeAvailableReq (op : MsgOp)
  | nodeAvailableResp (op : MsgOp)
  | pingReq (op : MsgOp)
  | powerBufferReq (op : MsgOp)
  | powerCalibrationReq (op : MsgOp)
  | powerCalibrationResp (op : MsgOp)
  | powerChangeReq (op : MsgOp)
  | powerInfoReq (op : MsgOp)
  | powerInfoResp (op : MsgOp)
  | powerLogIntervalSetReq (op : MsgOp)
  | rtcGetReq (op : MsgOp)
  | roleCallReq (op : MsgOp)
  | senseReportReq (op : MsgOp)
  | sleepSetReq (op : MsgOp)
  | broadcastGroupSwitchResp (op : MsgOp)
deriving DecidableEq, Repr

/-- The instruction of a variant. -/
def Tag.instr (op : MsgOp) : Tag → Instr
  | .clockGetReq => .clockGetReq op
  | .clockGetResp => .clockGetResp op
  | .deviceInfoReq => .deviceInfoReq op
  | .deviceInfoResp => .deviceInfoResp op
  | .lightCalibrationReq => .lightCalibrationReq op
  | .moduleJoinedNetworkReq => .moduleJoinedNetworkReq op
  | .networkResetReq => .networkResetReq op
  | .networkStatusReq => .networkStatusReq op
  | .nodeAvailableReq => .nodeAvailableReq op
  | .nodeAvailableResp => .nodeAvailableResp op
  | .pingReq => .pingReq op
  | .powerBufferReq => .powerBufferReq op
  | .powerCalibrationReq => .powerCalibrationReq op
  | .powerCalibrationResp => .powerCalibrationResp op
  | .powerChangeReq => .powerChangeReq op
  | .powerInfoReq => .powerInfoReq op
  | .powerInfoResp => .powerInfoResp op
  | .powerLogIntervalSetReq => .powerLogIntervalSetReq op
  | .rtcGetReq => .rtcGetReq op
  | .roleCallReq => .roleCallReq op
  | .senseReportReq => .senseReportReq op
  | .sleepSetReq => .sleepSetReq op
  | .broadcastGroupSwitchResp => .broadcastGroupSwitchResp op

/-- The variant and the form of an instruction that is a message variant. -/
def Instr.variant : Instr → Option (Tag × MsgOp)
  | .hexEncu => none
  | .hexDecu => none
  | .hexEncf32 => none
  | .hexDecf32 => none
  | .hexEncds => none
  | .hexDecds => none
  | .hexEncdm => none
  | .hexDecdm => none
  | .hexEncmac => none
  | .hexDecmac => none
  | .crcCompute => none
  | .regFromcode => none
  | .regTocode => none
  | .frmEncode => none
  | .frmParse => none
  | .msgDecode => none
  | .clockGetReq op => some (.clockGetReq, op)
  | .clockGetResp op => some (.clockGetResp, op)
  | .deviceInfoReq op => some (.deviceInfoReq, op)
  | .deviceInfoResp op => some (.deviceInfoResp, op)
  | .lightCalibrationReq op => some (.lightCalibrationReq, op)
  | .moduleJoinedNetworkReq op => some (.moduleJoinedNetworkReq, op)
  | .networkResetReq op => some (.networkResetReq, op)
  | .networkStatusReq op => some (.networkStatusReq, op)
  | .nodeAvailableReq op => some (.nodeAvailableReq, op)
  | .nodeAvailableResp op => some (.nodeAvailableResp, op)
  | .pingReq op => some (.pingReq, op)
  | .powerBufferReq op => some (.powerBufferReq, op)
  | .powerCalibrationReq op => some (.powerCalibrationReq, op)
  | .powerCalibrationResp op => some (.powerCalibrationResp, op)
  | .powerChangeReq op => some (.powerChangeReq, op)
  | .powerInfoReq op => some (.powerInfoReq, op)
  | .powerInfoResp op => some (.powerInfoResp, op)
  | .powerLogIntervalSetReq op => some (.powerLogIntervalSetReq, op)
  | .rtcGetReq op => some (.rtcGetReq, op)
  | .roleCallReq op => some (.roleCallReq, op)
  | .senseReportReq op => some (.senseReportReq, op)
  | .sleepSetReq op => some (.sleepSetReq, op)
  | .broadcastGroupSwitchResp op => some (.broadcastGroupSwitchResp, op)

/-- The input record of a command (00_scope.md R9; the "inputs" column of 30_encoding.md R90): the value of each
operand register the host gives; `none` is a register it gives no value (a valid bit of 0 for `M.SEQ`, `M.MAC`
and `F[j]`). The string goes to `IB` and its length to `ILEN`. -/
structure Operands where
  val : Option Word := none
  w : Option (BitVec 5) := none
  ib : List Byte := []
  tag : Option Tag := none
  seq : Option (BitVec 16) := none
  mac : Option Word := none
  fields : List (Option Word) := []
deriving DecidableEq, Repr

end Sys2Proof
end

