-- ==== Sys2Proof/Config.lean ====
section
/-! DEFINITION. What an implementation of the block fixes (00_scope.md R10): the constants the spec decides, with
their values, and the OPEN parameters, each a constant without a body, so that no proof can see its value. -/

namespace Sys2Proof.Config

/-- `CRC_POLY` (00_scope.md R10, 41_crc.md R129). -/
def crcPoly : BitVec 16 := 0x1021

/-- `CRC_INIT`: the register at the start of every computation; `0x0000`, not `0xFFFF` (41_crc.md R129,
90_conflicts.md C1). -/
def crcInit : BitVec 16 := 0x0000

/-- `W_MAX`: the widest field of the HEX unit, in digits (00_scope.md R10, D19). -/
def wMax : Nat := 16

/-- `PB_SCALE` of the power-buffer address formula (00_scope.md R10). -/
def pbScale : Nat := 32

/-- `PB_BASE` of the power-buffer address formula (00_scope.md R10). -/
def pbBase : Nat := 278528

/-- `CORR_DIV`, the divisor of the seconds correction (00_scope.md R10). -/
def corrDiv : Nat := 46875

/-- OPEN: by how many characters the buffers' capacity `L_MAX` exceeds 60 (D20, log 8). -/
opaque lMaxBeyond : Nat

/-- `L_MAX`: the capacity of `IB` and `OB` in characters, "at least 60" (00_scope.md R10). -/
def lMax : Nat := lMaxBeyond + 60

/-- OPEN: by how many the number of field registers `NF_MAX` exceeds 5 (D20, log 8). -/
opaque nfMaxBeyond : Nat

/-- `NF_MAX`: the number of payload field registers, "at least 5" (00_scope.md R10). -/
def nfMax : Nat := nfMaxBeyond + 5

/-- OPEN: the table of type codes that is supplied as the parameter `CODE` (D4). It is checked before it is used
(70 R292, log 6). -/
opaque codeSupplied : Tag → BitVec 16

/-- OPEN: the grammar that is supplied as the parameter `G(tag)` of a variant the document gives none for, if any
(D5). It is checked before it is used (log 7). -/
opaque grammarSupplied : Tag → Option Grammar

/-- OPEN: the field list that is supplied for `POWER_LOG_INTERVAL_SET_REQ` or `SLEEP_SET_REQ`, if any
(44 R218, R222). It is checked before it is used (log 7). -/
opaque durationsSupplied : Tag → Option (List Kind)

/-- OPEN: how a non-zero exact quotient is rendered into a machine number format (`FDIV`, D15, log 9). -/
opaque fdivNonzero : Rat → Rat

/-- `FDIV`: the rendering of `raw/46875.0`, which "must map 0 to exactly 0" whatever it is (44 R231). -/
def fdiv (q : Rat) : Rat := if q = 0 then 0 else fdivNonzero q

end Sys2Proof.Config
end

