-- ==== Sys2Proof/Machine/HexCodec.lean ====
section
/-! DEFINITION. The functions of the HEX unit on characters and strings: the hex-digit predicates and conversions
of 00_scope.md R14 and the two functions `encU` and `decU` of 40_hexcodec.md R100 and R101. -/

namespace Sys2Proof

/-- `isHex(c)`: `c` in "0".."9", "A".."F" or "a".."f" (00_scope.md R14). -/
def isHex (c : Byte) : Bool :=
  (decide (0x30 ≤ c.toNat) && decide (c.toNat ≤ 0x39)) || (decide (0x41 ≤ c.toNat) && decide (c.toNat ≤ 0x46)) ||
    (decide (0x61 ≤ c.toNat) && decide (c.toNat ≤ 0x66))

/-- `hexVal(c)`, of a hex digit of either case (00_scope.md R14). -/
def hexVal (c : Byte) : Nat :=
  if c.toNat ≤ 0x39 then c.toNat - 0x30
  else if c.toNat ≤ 0x46 then c.toNat - 0x41 + 10
  else c.toNat - 0x61 + 10

/-- `hexChar(d)`, upper case always (00_scope.md R14). -/
def hexChar (d : Nat) : Byte :=
  if d < 10 then BitVec.ofNat 8 (0x30 + d) else BitVec.ofNat 8 (0x41 + (d - 10))

/-- `allHex(s)` (00_scope.md R14). -/
def allHex (s : List Byte) : Bool := s.all isHex

/-- The `w` digits of `v`, most significant first: the loop of `encU` (40_hexcodec.md R100, 20_memory.md R53). -/
def hexDigits : Nat → Nat → List Byte
  | 0, _ => []
  | w + 1, v => hexChar (v / 16 ^ w % 16) :: hexDigits w v

/-- `encU(v, w)`; `none` where it raises `FieldOverflow` (40_hexcodec.md R100). -/
def encU (v w : Nat) : Option (List Byte) := if 16 ^ w ≤ v then none else some (hexDigits w v)

/-- The loop of `decU`: the value of a string of hex digits, the first most significant. -/
def hexValue (s : List Byte) : Nat := s.foldl (fun v c => v * 16 + hexVal c) 0

/-- `decU(s)`; `none` where it raises `MalformedHex` (40_hexcodec.md R101). -/
def decU (s : List Byte) : Option Nat :=
  if s = [] then none else if allHex s then some (hexValue s) else none

/-- `upper(s)`: "a".."f" become "A".."F", every other character stays (40_hexcodec.md R110). -/
def upper (s : List Byte) : List Byte :=
  s.map (fun c => if 0x61 ≤ c.toNat ∧ c.toNat ≤ 0x66 then c - 0x20 else c)

/-- `encU(c, 4)` of a 16-bit value, which cannot overflow (41_crc.md R134, 43_framing.md R170). -/
def hex16 (c : BitVec 16) : List Byte := hexDigits 4 c.toNat

/-- `encU(v, 16)` of a 64-bit value, which cannot overflow (30_encoding.md R75). -/
def hex64 (v : Word) : List Byte := hexDigits 16 v.toNat

end Sys2Proof
end

