-- ==== Sys2Proof/Machine/Tables.lean ====
section
/-! DEFINITION. The content of the constant tables `REG` and `VT` (10_state.md R30, R31; 30_encoding.md R80), the
lookups in them (42_registry.md R150), and the field kinds' widths and patterns (30_encoding.md R73, R81). -/

namespace Sys2Proof

/-- `lookup(c)`: the tag whose code is `c`, if one exists (42_registry.md R150). -/
def Registry.lookup (r : Registry) (c : BitVec 16) : Option Tag :=
  Tag.all.find? (fun t => r.get t == c)

/-- What 42_registry.md R150 fixes of a registry: the codes are unique and none is `0xFFFF`. -/
def Registry.wf (r : Registry) : Bool :=
  Tag.all.all (fun t => r.get t != 0xFFFF && Tag.all.all (fun u => r.get t != r.get u || t == u))

/-- The test registry `REG_TEST` (93_implementation_defined.md G3): PRESUMED values, not normative. They stand for
`CODE` in tests, and where the supplied table is no registry (log 6). -/
def testCode : Tag → BitVec 16
  | .clockGetReq => 0x003E
  | .clockGetResp => 0x003F
  | .deviceInfoReq => 0x0023
  | .deviceInfoResp => 0x0024
  | .lightCalibrationReq => 0x0102
  | .moduleJoinedNetworkReq => 0x0061
  | .networkResetReq => 0x0008
  | .networkStatusReq => 0x000A
  | .nodeAvailableReq => 0x0006
  | .nodeAvailableResp => 0x0007
  | .pingReq => 0x000D
  | .powerBufferReq => 0x0048
  | .powerCalibrationReq => 0x0026
  | .powerCalibrationResp => 0x0027
  | .powerChangeReq => 0x0017
  | .powerInfoReq => 0x0012
  | .powerInfoResp => 0x0013
  | .powerLogIntervalSetReq => 0x0057
  | .rtcGetReq => 0x0029
  | .roleCallReq => 0x0018
  | .senseReportReq => 0x0105
  | .sleepSetReq => 0x0050
  | .broadcastGroupSwitchResp => 0x0056

/-- `CODE(tag)`: the supplied table, if it is a registry; one that is not is rejected when it is supplied
(70_reset_and_hazards.md R292, log 6). -/
def Config.code (t : Tag) : BitVec 16 :=
  if Registry.wf (TagTable.ofFn Config.codeSupplied) then Config.codeSupplied t else testCode t

/-- The content of `REG` (10_state.md R30). -/
def Config.registry : Registry := TagTable.ofFn Config.code

/-- The number of hex digits of a `U(w)` field. -/
def UWidth.digits : UWidth → Nat
  | .w2 => 2
  | .w4 => 4
  | .w8 => 8
  | .w16 => 16

/-- The number of hex digits of a field of the kind (30_encoding.md R73). -/
def Kind.width : Kind → Nat
  | .u w => w.digits
  | .mac => 16
  | .f32 => 8
  | .bool => 2
  | .durS2 => 2
  | .durM4 => 4
  | .pbaddr => 8

/-- `pattern(tag)`: the group widths of the payload, the MAC's first (30_encoding.md R81). -/
def Grammar.pattern (g : Grammar) : List Nat :=
  (if g.hasMac then [16] else []) ++ g.fields.map Kind.width

/-- `explen(tag)`: the only payload length that matches (30_encoding.md R81). -/
def Grammar.explen (g : Grammar) : Nat := g.pattern.sum

/-- `SEQ_TX(tag)`: "no" for the network-status request alone (30_encoding.md R80, D10). -/
def seqTx : Tag → Bool
  | .networkStatusReq => false
  | .clockGetReq => true
  | .clockGetResp => true
  | .deviceInfoReq => true
  | .deviceInfoResp => true
  | .lightCalibrationReq => true
  | .moduleJoinedNetworkReq => true
  | .networkResetReq => true
  | .nodeAvailableReq => true
  | .nodeAvailableResp => true
  | .pingReq => true
  | .powerBufferReq => true
  | .powerCalibrationReq => true
  | .powerCalibrationResp => true
  | .powerChangeReq => true
  | .powerInfoReq => true
  | .powerInfoResp => true
  | .powerLogIntervalSetReq => true
  | .rtcGetReq => true
  | .roleCallReq => true
  | .senseReportReq => true
  | .sleepSetReq => true
  | .broadcastGroupSwitchResp => true

/-- A row all of whose attributes the spec gives. -/
def closedRow (t : Tag) (d : Dir) (m : Bool) (ks : List Kind) : VtRow :=
  { seqRx := true, seqTx := seqTx t, dir := some d, hasMac := some m, fields := some ks }

/-- A row of a variant the document gives no grammar for (44_payload_grammars.md R230). -/
def openRow (t : Tag) (g : Option Grammar) : VtRow :=
  { seqRx := true, seqTx := seqTx t, dir := g.map Grammar.dir, hasMac := g.map Grammar.hasMac,
    fields := g.map Grammar.fields }

/-- A row of one of the two outbound variants whose list of duration fields is OPEN (44 R218, R222). -/
def durationRow (t : Tag) (ks : Option (List Kind)) : VtRow :=
  { seqRx := true, seqTx := seqTx t, dir := some .tx, hasMac := some true, fields := ks }

/-- The row of each variant (30_encoding.md R80), given what is supplied for its OPEN cells: `g` the parameter
`G(tag)` of the 12 variants of 44 R230, `d` the field lists of 44 R218 and R222. -/
def variantRow (g : Tag → Option Grammar) (d : Tag → Option (List Kind)) (t : Tag) : VtRow :=
  match t with
  | .clockGetReq => openRow t (g t)
  | .clockGetResp => openRow t (g t)
  | .deviceInfoReq => openRow t (g t)
  | .deviceInfoResp => openRow t (g t)
  | .lightCalibrationReq => openRow t (g t)
  | .moduleJoinedNetworkReq => closedRow t .both true []
  | .networkResetReq => openRow t (g t)
  | .networkStatusReq => openRow t (g t)
  | .nodeAvailableReq => closedRow t .both true []
  | .nodeAvailableResp => openRow t (g t)
  | .pingReq => openRow t (g t)
  | .powerBufferReq => closedRow t .tx true [.pbaddr]
  | .powerCalibrationReq => openRow t (g t)
  | .powerCalibrationResp => closedRow t .both true [.f32, .f32, .f32, .f32]
  | .powerChangeReq => closedRow t .both true [.bool]
  | .powerInfoReq => openRow t (g t)
  | .powerInfoResp => closedRow t .both true [.u .w4, .u .w4, .u .w8, .u .w8, .u .w4]
  | .powerLogIntervalSetReq => durationRow t (d t)
  | .rtcGetReq => openRow t (g t)
  | .roleCallReq => closedRow t .tx false [.u .w2]
  | .senseReportReq => closedRow t .both true [.u .w4, .u .w4]
  | .sleepSetReq => durationRow t (d t)
  | .broadcastGroupSwitchResp => closedRow t .both true [.u .w2, .bool]

/-- A grammar that may be supplied for a block with `nf` field registers: no more fields than registers, and a
field kind without a decode column (`PBADDR`, 30_encoding.md R79) only for an outbound variant (logs 7 and 14). -/
def Grammar.ok (nf : Nat) (g : Grammar) : Bool :=
  decide (g.fields.length ≤ nf) && (g.dir == .tx || !g.fields.contains .pbaddr)

/-- A list over {`DUR_S2`, `DUR_M4`} (44_payload_grammars.md R218) that `nf` field registers can hold. -/
def durationsOk (nf : Nat) (ks : List Kind) : Bool :=
  decide (ks.length ≤ nf) && ks.all (fun k => k == .durS2 || k == .durM4)

/-- The content of `VT` (10_state.md R31): 30_encoding.md R80 with the OPEN cells as supplied. -/
def Config.variantTable : VariantTable :=
  TagTable.ofFn (variantRow (fun t => (Config.grammarSupplied t).filter (Grammar.ok Config.nfMax))
    (fun t => (Config.durationsSupplied t).filter (durationsOk Config.nfMax)))

/-- The variant table of a block for which no OPEN grammar is supplied (the setting of 95_test_vectors.md). -/
def closedTable : VariantTable := TagTable.ofFn (variantRow (fun _ => none) (fun _ => none))

/-- The registry of 95_test_vectors.md section 1. -/
def testRegistry : Registry := TagTable.ofFn testCode

/-- The row of `t` is as 30_encoding.md R80 has it, its OPEN cells holding nothing or something that may be
supplied to a block with `nf` field registers. -/
def VtRow.ok (nf : Nat) (t : Tag) (r : VtRow) : Bool :=
  r == variantRow (fun _ => r.grammar) (fun _ => r.fields) t && r.grammar.all (Grammar.ok nf) &&
    (!(t == .powerLogIntervalSetReq || t == .sleepSetReq) || r.fields.all (durationsOk nf))

/-- `VT` is a variant table (10_state.md R31) for `nf` field registers. -/
def VariantTable.wf (nf : Nat) (vt : VariantTable) : Bool := Tag.all.all (fun t => (vt.get t).ok nf t)

end Sys2Proof
end

