-- ==== Sys2Proof/Decode.lean ====
section
/-! DEFINITION. Instruction words and their decoding. The word of a command is one character holding its 4-bit code
`CMD` (30_encoding.md R90). The word of a message variant is five characters: the code of the command of the FRAME
unit that works on it, then the type field of the frame, four hex digits (R71, R72; log 10). -/

namespace Sys2Proof

/-- Why a word is no instruction. -/
inductive DecodeError where
  /-- Neither one character nor five. -/
  | length (n : Nat)
  /-- One character above `0x0F`, which is no 4-bit code. -/
  | command (b : Byte)
  /-- Five characters whose first is the code of no command of the FRAME unit. -/
  | msgOp (b : Byte)
  /-- A type field that holds a character that is no hex digit. -/
  | typeField (op : MsgOp)
  /-- A type code that is not in the registry (30_encoding.md R85). -/
  | unknownType (op : MsgOp) (c : BitVec 16)
deriving DecidableEq, Repr

/-- The command of a code `CMD` (30_encoding.md R90); all 16 are assigned. -/
def decodeCommand (n : Nat) : Option Instr :=
  match n with
  | 0 => some .hexEncu
  | 1 => some .hexDecu
  | 2 => some .hexEncf32
  | 3 => some .hexDecf32
  | 4 => some .hexEncds
  | 5 => some .hexDecds
  | 6 => some .hexEncdm
  | 7 => some .hexDecdm
  | 8 => some .hexEncmac
  | 9 => some .hexDecmac
  | 10 => some .crcCompute
  | 11 => some .regFromcode
  | 12 => some .regTocode
  | 13 => some .frmEncode
  | 14 => some .frmParse
  | 15 => some .msgDecode
  | _ => none

/-- The command of the FRAME unit with the code `CMD` (30_encoding.md R90). -/
def decodeMsgOp (n : Nat) : Option MsgOp :=
  match n with
  | 13 => some .encode
  | 14 => some .parse
  | 15 => some .decode
  | _ => none

/-- The decoder, total on any characters: a command, or a variant selected in the registry by its type code, which
is "compared as a number" (42_registry.md R151). -/
def decode (r : Registry) (ws : List Byte) : Except DecodeError Instr :=
  match ws with
  | [b] =>
    match decodeCommand b.toNat with
    | some i => .ok i
    | none => .error (.command b)
  | [b, t0, t1, t2, t3] =>
    match decodeMsgOp b.toNat with
    | none => .error (.msgOp b)
    | some op =>
      match decU [t0, t1, t2, t3] with
      | none => .error (.typeField op)
      | some c =>
        match r.lookup (BitVec.ofNat 16 c) with
        | none => .error (.unknownType op (BitVec.ofNat 16 c))
        | some t => .ok (t.instr op)
  | _ => .error (.length ws.length)

/-- The code `CMD` of a command of the FRAME unit (30_encoding.md R90). -/
def MsgOp.code : MsgOp → Byte
  | .encode => 0xD
  | .parse => 0xE
  | .decode => 0xF

/-- The word of a message variant: the command's code and the type field `encU(CODE(t), 4)` (30 R71). -/
def encodeVariant (r : Registry) (t : Tag) (op : MsgOp) : List Byte := op.code :: hex16 (r.get t)

/-- The encoder: the word of an instruction. -/
def encode (r : Registry) (i : Instr) : List Byte :=
  match i with
  | .hexEncu => [0x0]
  | .hexDecu => [0x1]
  | .hexEncf32 => [0x2]
  | .hexDecf32 => [0x3]
  | .hexEncds => [0x4]
  | .hexDecds => [0x5]
  | .hexEncdm => [0x6]
  | .hexDecdm => [0x7]
  | .hexEncmac => [0x8]
  | .hexDecmac => [0x9]
  | .crcCompute => [0xA]
  | .regFromcode => [0xB]
  | .regTocode => [0xC]
  | .frmEncode => [0xD]
  | .frmParse => [0xE]
  | .msgDecode => [0xF]
  | .clockGetReq op => encodeVariant r .clockGetReq op
  | .clockGetResp op => encodeVariant r .clockGetResp op
  | .deviceInfoReq op => encodeVariant r .deviceInfoReq op
  | .deviceInfoResp op => encodeVariant r .deviceInfoResp op
  | .lightCalibrationReq op => encodeVariant r .lightCalibrationReq op
  | .moduleJoinedNetworkReq op => encodeVariant r .moduleJoinedNetworkReq op
  | .networkResetReq op => encodeVariant r .networkResetReq op
  | .networkStatusReq op => encodeVariant r .networkStatusReq op
  | .nodeAvailableReq op => encodeVariant r .nodeAvailableReq op
  | .nodeAvailableResp op => encodeVariant r .nodeAvailableResp op
  | .pingReq op => encodeVariant r .pingReq op
  | .powerBufferReq op => encodeVariant r .powerBufferReq op
  | .powerCalibrationReq op => encodeVariant r .powerCalibrationReq op
  | .powerCalibrationResp op => encodeVariant r .powerCalibrationResp op
  | .powerChangeReq op => encodeVariant r .powerChangeReq op
  | .powerInfoReq op => encodeVariant r .powerInfoReq op
  | .powerInfoResp op => encodeVariant r .powerInfoResp op
  | .powerLogIntervalSetReq op => encodeVariant r .powerLogIntervalSetReq op
  | .rtcGetReq op => encodeVariant r .rtcGetReq op
  | .roleCallReq op => encodeVariant r .roleCallReq op
  | .senseReportReq op => encodeVariant r .senseReportReq op
  | .sleepSetReq op => encodeVariant r .sleepSetReq op
  | .broadcastGroupSwitchResp op => encodeVariant r .broadcastGroupSwitchResp op

/-- The characters of the word that spec/opcode_table.json numbers as `w` in `nbits` bits: a row of at most 8 bits is a
command code; a row of 16 bits is a type code, as the type field of a frame that is parsed (log 11). -/
def tableBytes (nbits w : Nat) : List Byte :=
  if nbits ≤ 8 then [BitVec.ofNat 8 w] else MsgOp.parse.code :: hexDigits 4 w

/-- The instruction the decoder reads from a word given as the opcode table numbers it. -/
def decodeTableWord (nbits w : Nat) : Option Instr :=
  match decode Config.registry (tableBytes nbits w) with
  | .ok i => some i
  | .error _ => none

end Sys2Proof
end

