-- ==== Sys2Proof/Machine/Crc.lean ====
section
/-! DEFINITION. The checksum of the CRC unit: the bit step, the byte step and the computation over a string
(41_crc.md R129 to R134), and the wide form the document describes (R133). -/

namespace Sys2Proof

/-- The bit step `crcBit(c, d)` (41_crc.md R132): shift left by 1, then XOR with the polynomial exactly when the
input bit differs from the outgoing top bit. -/
def crcBit (c : BitVec 16) (d : Bool) : BitVec 16 :=
  if (c.getLsbD 15) ^^ d then (c <<< 1) ^^^ Config.crcPoly else c <<< 1

/-- The byte step `crcByte(c, b)`: bit 7 of the character first (41_crc.md R131, 20_memory.md R54). -/
def crcByte (c : BitVec 16) (b : Byte) : BitVec 16 :=
  [7, 6, 5, 4, 3, 2, 1, 0].foldl (fun c k => crcBit c (b.getLsbD k)) c

/-- `crc16(s)` (41_crc.md R130). -/
def crc16 (s : List Byte) : BitVec 16 := s.foldl crcByte Config.crcInit

/-- `crcHex(s)`: four upper-case digits (41_crc.md R130, R134). -/
def crcHex (s : List Byte) : List Byte := hex16 (crc16 s)

/-- The bit step of the document's form, on a register held in a wider integer that no shift cuts
(41_crc.md R133): the top bit is bit 15, bits above it stay. -/
def crcBitWide (c : Nat) (d : Bool) : Nat :=
  if (c.testBit 15) ^^ d then (2 * c) ^^^ Config.crcPoly.toNat else 2 * c

/-- The byte step of the document's form: "mask to 16 bits after each byte" (41_crc.md R133). -/
def crcByteWide (c : Nat) (b : Byte) : Nat :=
  [7, 6, 5, 4, 3, 2, 1, 0].foldl (fun c k => crcBitWide c (b.getLsbD k)) c % 65536

/-- The computation in the document's form (41_crc.md R133). -/
def crcWide (s : List Byte) : Nat := s.foldl crcByteWide Config.crcInit.toNat

end Sys2Proof
end

