-- ==== Sys2Proof/Machine/State.lean ====
section
/-! DEFINITION. The state of the block (10_state.md): the registers of R23 to R28, the buffers of 20_memory.md R50, the
constant tables `REG` and `VT` (R30, R31), and the inputs the host has given and the block has not taken yet. The
errors of 60_exceptions.md R260, the refusals of R275, and the ways a step can stop. -/

namespace Sys2Proof.Machine

/-- `ERR.FIELD`: which field was malformed or overflowed (10_state.md R25). -/
inductive ErrField where
  | typeCode
  | seq
  | mac
  | crc
  | value
  | payload (j : Nat)
deriving DecidableEq, Repr

/-- The closed list of codec errors with the information each records (60_exceptions.md R260): the content of the
error record `ERR` (10_state.md R25). -/
inductive CodecError where
  | malformedHex (field : ErrField)
  | fieldOverflow (field : ErrField)
  | payloadMismatch (code : BitVec 16) (pattern : List Nat) (payload : List Byte)
  | unknownMessageType (code : BitVec 16)
  | checksumMismatch
deriving DecidableEq, Repr

/-- `ST`: the status of the current transaction (10_state.md R24). -/
inductive Status where
  | unparsed
  | parsed
  | failed
deriving DecidableEq, Repr

/-- The scalar operand registers that may hold no value (10_state.md R35). -/
inductive Reg where
  | val
  | w
  | tag
deriving DecidableEq, Repr

/-- Why a command was refused: "an input to which neither the document nor a decision of this spec gives a meaning"
(60_exceptions.md R275), or a read of something that holds no value, which is refused (10_state.md R35). -/
inductive RefusalReason where
  /-- An operand register that holds no value (R35). -/
  | noValue (r : Reg)
  /-- A character of `IB` below `ILEN` that holds no value (R35). -/
  | noCharacter
  /-- `HEX.ENCU` with `W` outside 1 to 16 (40_hexcodec.md R100). -/
  | widthOutside
  /-- A string operand that is not of the length the command takes (R101, R103, R105, R107, R109, R151, R172). -/
  | operandLength
  /-- A string longer than the buffer, `L_MAX` (20_memory.md R50, 43_framing.md R170). -/
  | tooLong
  /-- A `BOOL` field other than 0 or 1 on encode (43_framing.md R177). -/
  | boolValue (j : Nat)
  /-- A payload field without a value on encode (43_framing.md R177). -/
  | missingField (j : Nat)
  /-- A variant that addresses a MAC, and none was given, on encode (43_framing.md R170). -/
  | missingMac
  /-- A variant whose grammar is an OPEN parameter that is not supplied (42_registry.md R153, 44 R230). -/
  | grammarNotSupplied (t : Tag)
  /-- A group to be decoded whose kind has no decode column, `PBADDR` (30_encoding.md R79; log 14). -/
  | noDecode
  /-- More payload fields in a grammar than there are field registers (10_state.md R27; log 8). -/
  | noFieldRegister
  /-- The variant form of parse, given a frame of another type code (log 10). -/
  | otherVariant
deriving DecidableEq, Repr

/-- A character buffer: the characters it holds at their indices, in strictly rising order of index. An index that is
not listed holds no value (log 12). -/
abbrev Memory := List Host.Cell

/-- One input of the host: a command, given by its word and its input record (00_scope.md R9), or a reset
(70_reset_and_hazards.md R290). -/
inductive HostInput where
  | command (word : List Byte) (ops : Operands)
  | reset
deriving DecidableEq, Repr

/-- The state of the block. A register that holds no value (10_state.md R27, R28, R35) is `none`. -/
structure State where
  /-- `ST` (R24). -/
  st : Status
  /-- The error record `ERR`, which holds something only after a failed command (R25). -/
  err : Option CodecError
  /-- `CRC` (R23). -/
  crc : BitVec 16
  /-- `M.TAG` (R26). -/
  tag : Option Tag
  /-- `M.CODE` (R26). -/
  code : Option (BitVec 16)
  /-- `M.SEQ`; `M.SEQV` is whether it holds a value (R26). -/
  seq : Option (BitVec 16)
  /-- `M.MAC`; `M.MACV` is whether it holds a value (R26). -/
  mac : Option Word
  /-- `F[0]` to `F[NF_MAX-1]`; `FV[j]` is whether entry `j` holds a value (R27). -/
  f : List (Option Word)
  /-- `VAL` (R28). -/
  val : Option Word
  /-- `W` (R28). -/
  w : Option (BitVec 5)
  /-- `IB` (20_memory.md R50). -/
  ib : Memory
  /-- `ILEN` (20_memory.md R50). -/
  ilen : Nat
  /-- `OB` (20_memory.md R50). -/
  ob : Memory
  /-- `OLEN` (20_memory.md R50). -/
  olen : Nat
  /-- `REG`, read-only (R30). -/
  reg : Registry
  /-- `VT`, read-only (R31). -/
  vt : VariantTable
  /-- The model's own: why the command was refused, after one that was, which leaves `ST = UNPARSED`
  (60_exceptions.md R275; log 5). -/
  refusal : Option RefusalReason
  /-- The model's own: the host's inputs not taken yet, oldest first (log 1). -/
  queue : List HostInput
deriving DecidableEq, Repr

/-- A fault, at which the machine stops. The spec gives the block none: an error ends its command and the block goes on
(60_exceptions.md R266, R268), a refusal leaves `ST = UNPARSED` (R275), and a model "has no stuck state and no hang for
any input" (43_framing.md R174). -/
inductive Fault where
deriving DecidableEq, Repr

/-- An input that the block has no way to be given. All are safe: the model stops and says nothing of the hardware. -/
inductive Refusal where
  /-- The instruction has no meaning in the model yet; raised by `exec`. Safe. -/
  | notModelled (mnemonic : String)
  /-- A word that is no instruction; raised by `step` (30_encoding.md R90: all 16 command codes are assigned; log 11).
  Safe. -/
  | noSuchWord
  /-- An input record with more payload fields than there are field registers; raised by `step` (log 8). Safe. -/
  | noFieldRegister
deriving DecidableEq, Repr

/-- The state right after reset (10_state.md R35, 70_reset_and_hazards.md R290): every valid bit 0, `CRC`, `ILEN` and
`OLEN` zero, every other register holding no value, the tables complete. -/
def State.reset : State where
  st := .unparsed
  err := none
  crc := 0x0000
  tag := none
  code := none
  seq := none
  mac := none
  f := List.replicate Config.nfMax none
  val := none
  w := none
  ib := []
  ilen := 0
  ob := []
  olen := 0
  reg := Config.registry
  vt := Config.variantTable
  refusal := none
  queue := []

end Sys2Proof.Machine
end

