-- ==== Sys2Proof/Machine/Flags.lean ====
section
/-! DEFINITION. The flag-like state of the block (10_state.md R29): `ST`, the valid bits and `ERR`, with their codes,
and how a command starts and ends (43_framing.md R173). -/

namespace Sys2Proof.Machine

/-- The code of `ST` (10_state.md R24). -/
def Status.code : Status → BitVec 2
  | .unparsed => 0
  | .parsed => 1
  | .failed => 2

/-- `ERR.KIND` (60_exceptions.md R260). -/
def CodecError.kind : CodecError → BitVec 3
  | .malformedHex _ => 1
  | .fieldOverflow _ => 2
  | .payloadMismatch _ _ _ => 3
  | .unknownMessageType _ => 4
  | .checksumMismatch => 5

/-- `ERR.FIELD`, valid for `MalformedHex` and `FieldOverflow` (10_state.md R25). -/
def CodecError.field : CodecError → Option ErrField
  | .malformedHex f => some f
  | .fieldOverflow f => some f
  | .payloadMismatch _ _ _ => none
  | .unknownMessageType _ => none
  | .checksumMismatch => none

/-- `ERR.CODE`, valid for `UnknownMessageType` and `PayloadMismatch` (10_state.md R25). -/
def CodecError.code : CodecError → Option (BitVec 16)
  | .malformedHex _ => none
  | .fieldOverflow _ => none
  | .payloadMismatch c _ _ => some c
  | .unknownMessageType c => some c
  | .checksumMismatch => none

/-- `ERR.PATTERN`, valid for `PayloadMismatch` (10_state.md R25). -/
def CodecError.pattern : CodecError → Option (List Nat)
  | .malformedHex _ => none
  | .fieldOverflow _ => none
  | .payloadMismatch _ p _ => some p
  | .unknownMessageType _ => none
  | .checksumMismatch => none

/-- `ERR.PAYLOAD`, valid for `PayloadMismatch` (10_state.md R25). -/
def CodecError.payload : CodecError → Option (List Byte)
  | .malformedHex _ => none
  | .fieldOverflow _ => none
  | .payloadMismatch _ _ p => some p
  | .unknownMessageType _ => none
  | .checksumMismatch => none

/-- `M.SEQV` (10_state.md R26). -/
def State.seqv (s : State) : Bool := s.seq.isSome

/-- `M.MACV` (10_state.md R26). -/
def State.macv (s : State) : Bool := s.mac.isSome

/-- `F[j]`, when `FV[j] = 1` (10_state.md R27). -/
def State.fieldReg (s : State) (j : Nat) : Option Word := (s.f[j]?).join

/-- `FV[j]` (10_state.md R27). -/
def State.fv (s : State) (j : Nat) : Bool := (s.fieldReg j).isSome

/-- The registers that are operands of a command and so keep what the host gave when it starts (43_framing.md R173,
log 3). The message registers together are the operand of `FRM.ENCODE`. -/
structure Kept where
  val : Bool := false
  tag : Bool := false
  seq : Bool := false
  message : Bool := false
deriving DecidableEq, Repr

/-- A register at the start of a command: as given when it is an operand, else holding no value. -/
def keepIf {α : Type} (b : Bool) (x : Option α) : Option α := if b then x else none

/-- The start of a command, after its operands are sampled (43_framing.md R173): `ST <- UNPARSED`, `OLEN <- 0`, and
the previous results are discarded (70 R294): what is no operand holds no value (10 R28; log 3). -/
def State.start (k : Kept) (s : State) : State :=
  { s with
    st := .unparsed
    err := none
    refusal := none
    ob := []
    olen := 0
    val := keepIf k.val s.val
    tag := keepIf (k.tag || k.message) s.tag
    code := keepIf k.message s.code
    seq := keepIf (k.seq || k.message) s.seq
    mac := keepIf k.message s.mac
    f := s.f.map (keepIf k.message) }

/-- The block at the start of a command of which `VAL` is an operand. -/
def Kept.ofVal : Kept := { val := true }

/-- The block at the start of a command of which no register but `IB` and `ILEN` is an operand. -/
def Kept.nothing : Kept := {}

/-- The operand of `REG.TOCODE`. -/
def Kept.ofTag : Kept := { tag := true }

/-- The operand of `MSG.DECODE` among the message registers. -/
def Kept.ofSeq : Kept := { seq := true }

/-- The operands of `FRM.ENCODE`. -/
def Kept.ofMessage : Kept := { message := true }

/-- Taking an error (60_exceptions.md R266): `ST <- FAILED`, `ERR` is written, "nothing else is". There is no handler,
no vector and no saved program counter, and no return from it: the next command starts a new transaction (R268). -/
def State.fail (e : CodecError) (s : State) : State := { s with st := .failed, err := some e }

/-- A refusal "leaves `ST = UNPARSED` and writes nothing" (60_exceptions.md R275); the reason is the model's own record,
which makes it an outcome distinct from success and from the five errors (log 5). -/
def State.refused (r : RefusalReason) (s : State) : State := { s with st := .unparsed, refusal := some r }

end Sys2Proof.Machine
end

