-- ==== Sys2Proof/Machine/Ops.lean ====
section
/-! DEFINITION. The operations every command is written with: reading and writing the character buffers (20_memory.md
R50, 00_scope.md R15), raising an error (60_exceptions.md R266), refusing (R275), ending a command, and reset
(70_reset_and_hazards.md R290). -/

namespace Sys2Proof.Machine

/-- What an index of a buffer that is not listed reads as: no value (10_state.md R35, log 12). -/
def Memory.unlisted : Option Byte := none

/-- The character at an index. -/
def Memory.read : Memory → Nat → Option Byte
  | [], _ => Memory.unlisted
  | c :: m, a => if c.1 = a then some c.2 else Memory.read m a

/-- The canonical form: indices strictly rising. No entry equals what an unlisted index reads as, since that is no
value. -/
abbrev Memory.wf (m : Memory) : Prop := m.Pairwise (fun x y => x.1 < y.1)

/-- The entries of a string at the indices from `a` up. -/
def Memory.cells (a : Nat) : List Byte → Memory
  | [] => []
  | b :: t => (a, b) :: Memory.cells (a + 1) t

/-- Write the characters of a string from index `a` up: the entries below, the string's own, the entries above. -/
def Memory.writeString (m : Memory) (a : Nat) (t : List Byte) : Memory :=
  m.filter (fun c => decide (c.1 < a)) ++ Memory.cells a t ++ m.filter (fun c => decide (a + t.length ≤ c.1))

/-- The `n` characters from index `a` up, when all of them hold a value. -/
def Memory.readString (m : Memory) (a : Nat) : Nat → Option (List Byte)
  | 0 => some []
  | n + 1 =>
    match m.read a, Memory.readString m (a + 1) n with
    | some b, some t => some (b :: t)
    | _, _ => none

/-- The buffer that holds a string from index 0 up and nothing else. -/
def Memory.ofString (t : List Byte) : Memory := Memory.cells 0 t

/-- Why a command ends before it has a result: an error of the document (60_exceptions.md R260) or a refusal (R275). -/
inductive Stop where
  | raise (e : CodecError)
  | refuse (r : RefusalReason)
deriving DecidableEq, Repr

/-- `raise E(info)` (00_scope.md R15). -/
def raise {α : Type} (e : CodecError) : Except Stop α := .error (.raise e)

/-- `refuse(reason)` (00_scope.md R15). -/
def refuse {α : Type} (r : RefusalReason) : Except Stop α := .error (.refuse r)

/-- Stop unless the condition holds. -/
def require (c : Prop) [Decidable c] (e : Stop) : Except Stop Unit := if c then .ok () else .error e

/-- The state after a stop, from the state the command started in: an error is taken (60_exceptions.md R266), or the
command is refused (R275). -/
def Stop.after (s0 : State) : Stop → State
  | .raise e => s0.fail e
  | .refuse r => s0.refused r

/-- The end of a command: the checks are made, and only "after the last check" are the results written
(43_framing.md R171, 20_memory.md R59). Every command ends: in a result, an error or a refusal (R174). -/
def finish {α : Type} (s0 : State) (checks : Except Stop α) (writes : α → State) :
    Host.Outcome State Fault Refusal :=
  match checks with
  | .ok a => .next (writes a)
  | .error e => .next (e.after s0)

/-- `MemWrite(a, n, v)` of the output buffer (00_scope.md R15). -/
def State.memWrite (a : Nat) (t : List Byte) (s : State) : State :=
  { s with ob := s.ob.writeString a t, olen := max s.olen (a + t.length) }

/-- End with a string result: `MemWrite(0, n, t); OLEN <- n; ST <- PARSED`. -/
def State.out (t : List Byte) (s : State) : State :=
  { s.memWrite 0 t with olen := t.length, st := .parsed }

/-- End with a value result: `VAL <- zext_64(v); ST <- PARSED`. -/
def State.value (v : Nat) (s : State) : State := { s with val := some (BitVec.ofNat 64 v), st := .parsed }

/-- The CRC register after a computation over `t` (10_state.md R23, 41_crc.md R130). -/
def State.checksum (t : List Byte) (s : State) : State := { s with crc := crc16 t }

/-- End with a message result (43_framing.md R171, R172): identity, then `F[j]` and `FV[j]` for the fields given, every
later `FV[j] <- 0`, `ST <- PARSED`. -/
def State.message (t : Tag) (c : BitVec 16) (q : Option (BitVec 16)) (m : Option Word) (fs : List Word)
    (s : State) : State :=
  { s with
    tag := some t
    code := some c
    seq := q
    mac := m
    f := fs.map some ++ List.replicate (s.f.length - fs.length) none
    st := .parsed }

/-- Reset (10_state.md R35, 70_reset_and_hazards.md R290): as `State.reset`, the tables being constant and the number
of field registers being the block's. -/
def State.hostReset (s : State) : State :=
  { s with
    st := .unparsed
    err := none
    refusal := none
    crc := 0x0000
    tag := none
    code := none
    seq := none
    mac := none
    f := List.replicate s.f.length none
    val := none
    w := none
    ib := []
    ilen := 0
    ob := []
    olen := 0 }

end Sys2Proof.Machine
end

