-- ==== Sys2Proof/Machine/Operands.lean ====
section
/-! DEFINITION. How a command samples its operands (43_framing.md R173, 70_reset_and_hazards.md R295), every form of
them: the scalar registers, the input string with and without a fixed length (30_encoding.md R90), and hex fields; and
how an input record is given to the registers (00_scope.md R9). -/

namespace Sys2Proof.Machine

/-- A register that must hold a value: a read of one that holds none is refused, "never as zero" (10_state.md R35, 93 U11;
log 2). -/
def needValue {α : Type} (r : Reg) (x : Option α) : Except Stop α :=
  match x with
  | some v => .ok v
  | none => refuse (.noValue r)

/-- The operand `VAL`. -/
def State.readVal (s : State) : Except Stop Word := needValue .val s.val

/-- The operand `W`. -/
def State.readW (s : State) : Except Stop (BitVec 5) := needValue .w s.w

/-- The operand `M.TAG`. -/
def State.readTag (s : State) : Except Stop Tag := needValue .tag s.tag

/-- The operand string `MemRead(0, ILEN)` (20_memory.md R50): refused when it is longer than the buffer. -/
def State.input (s : State) : Except Stop (List Byte) :=
  if s.ilen ≤ Config.lMax then
    match s.ib.readString 0 s.ilen with
    | some t => .ok t
    | none => refuse .noCharacter
  else refuse .tooLong

/-- An operand string of exactly `n` characters; another length is refused. -/
def State.fixedInput (n : Nat) (s : State) : Except Stop (List Byte) :=
  if s.ilen = n then s.input else refuse .operandLength

/-- `encU(v, w)` for a field: it may raise `FieldOverflow` (40_hexcodec.md R100). -/
def encodeField (fld : ErrField) (v w : Nat) : Except Stop (List Byte) :=
  match encU v w with
  | some t => .ok t
  | none => raise (.fieldOverflow fld)

/-- `decU(t)` for a field: it may raise `MalformedHex` (40_hexcodec.md R101). -/
def decodeField (fld : ErrField) (t : List Byte) : Except Stop Nat :=
  match decU t with
  | some v => .ok v
  | none => raise (.malformedHex fld)

/-- The registers with an input record given to them: every operand register gets what the record says, so that nothing
passes from one command to the next (10_state.md R20; log 1). `M.CODE` holds "the variant's type code, `CODE(M.TAG)`"
(R26; log 20). -/
def State.load (o : Operands) (s : State) : State :=
  { s with
    val := o.val
    w := o.w
    ib := Memory.ofString o.ib
    ilen := o.ib.length
    tag := o.tag
    code := o.tag.map s.reg.get
    seq := o.seq
    mac := o.mac
    f := o.fields ++ List.replicate (s.f.length - o.fields.length) none }

/-- The least input record the operand ports of a variant's three forms admit: every field and the MAC 0; a frame or a
payload all of whose digits after the type field are "0" (log 1). -/
def leastMessage (r : Registry) (t : Tag) : MsgOp → Operands
  | .encode => { mac := some 0, fields := List.replicate 5 (some 0) }
  | .parse => { ib := hex16 (r.get t) ++ hexDigits 8 0 }
  | .decode => { ib := hexDigits 16 0 }

/-- The least input record each command's operand ports admit (30_encoding.md R90, 60_exceptions.md R275): values 0, the
smallest legal width, strings of the shortest legal length, all their digits "0" (log 1). -/
def leastOperands (r : Registry) (i : Instr) : Operands :=
  match i with
  | .hexEncu => { val := some 0, w := some 1 }
  | .hexDecu => { ib := hexDigits 1 0 }
  | .hexEncf32 => { val := some 0 }
  | .hexDecf32 => { ib := hexDigits 8 0 }
  | .hexEncds => { val := some 0 }
  | .hexDecds => { ib := hexDigits 2 0 }
  | .hexEncdm => { val := some 0 }
  | .hexDecdm => { ib := hexDigits 4 0 }
  | .hexEncmac => { val := some 0 }
  | .hexDecmac => { ib := hexDigits 16 0 }
  | .crcCompute => {}
  | .regFromcode => { ib := hexDigits 4 0 }
  | .regTocode => { tag := some .clockGetReq }
  | .frmEncode => { tag := some .roleCallReq, fields := [some 0] }
  | .frmParse => {}
  | .msgDecode => { ib := hexDigits 4 0 }
  | .clockGetReq op => leastMessage r .clockGetReq op
  | .clockGetResp op => leastMessage r .clockGetResp op
  | .deviceInfoReq op => leastMessage r .deviceInfoReq op
  | .deviceInfoResp op => leastMessage r .deviceInfoResp op
  | .lightCalibrationReq op => leastMessage r .lightCalibrationReq op
  | .moduleJoinedNetworkReq op => leastMessage r .moduleJoinedNetworkReq op
  | .networkResetReq op => leastMessage r .networkResetReq op
  | .networkStatusReq op => leastMessage r .networkStatusReq op
  | .nodeAvailableReq op => leastMessage r .nodeAvailableReq op
  | .nodeAvailableResp op => leastMessage r .nodeAvailableResp op
  | .pingReq op => leastMessage r .pingReq op
  | .powerBufferReq op => leastMessage r .powerBufferReq op
  | .powerCalibrationReq op => leastMessage r .powerCalibrationReq op
  | .powerCalibrationResp op => leastMessage r .powerCalibrationResp op
  | .powerChangeReq op => leastMessage r .powerChangeReq op
  | .powerInfoReq op => leastMessage r .powerInfoReq op
  | .powerInfoResp op => leastMessage r .powerInfoResp op
  | .powerLogIntervalSetReq op => leastMessage r .powerLogIntervalSetReq op
  | .rtcGetReq op => leastMessage r .rtcGetReq op
  | .roleCallReq op => leastMessage r .roleCallReq op
  | .senseReportReq op => leastMessage r .senseReportReq op
  | .sleepSetReq op => leastMessage r .sleepSetReq op
  | .broadcastGroupSwitchResp op => leastMessage r .broadcastGroupSwitchResp op

end Sys2Proof.Machine
end

