-- ==== Sys2Proof/Machine/CrcReg.lean ====
section
/-! DEFINITION. The meanings of the CRC command (41_crc.md R130) and of the two registry commands
(42_registry.md R151, R152). -/

namespace Sys2Proof.Machine

/-- `CRC.COMPUTE`: any string, and the remainder stays in `CRC` (41_crc.md R130). -/
def execCrcCompute (s : State) : Host.Outcome State Fault Refusal :=
  finish (s.start .nothing) s.input (fun t => ((s.start .nothing).checksum t).out (crcHex t))

/-- The end of `REG.FROMCODE` for a decoded code: the variant, or `UnknownMessageType(c)` (42_registry.md R151). The
direction is not asked. -/
def identify (c : BitVec 16) (s0 : State) : State :=
  match s0.reg.lookup c with
  | none => s0.fail (.unknownMessageType c)
  | some t => { s0 with tag := some t, code := some c, st := .parsed }

/-- `REG.FROMCODE` (42_registry.md R151). -/
def execRegFromcode (s : State) : Host.Outcome State Fault Refusal :=
  finish (s.start .nothing)
    (do let t ← s.fixedInput 4
        decodeField .typeCode t)
    (fun c => identify (BitVec.ofNat 16 c) (s.start .nothing))

/-- `REG.TOCODE` (42_registry.md R152). -/
def execRegTocode (s : State) : Host.Outcome State Fault Refusal :=
  finish (s.start .ofTag) s.readTag
    (fun t => { (s.start .ofTag).out (hex16 (s.reg.get t)) with code := some (s.reg.get t) })

end Sys2Proof.Machine
end

