-- ==== Sys2Proof/Machine/Hex.lean ====
section
/-! DEFINITION. The meanings of the ten commands of the HEX unit (40_hexcodec.md R100 to R109). -/

namespace Sys2Proof.Machine

/-- `HEX.ENC*`: the value that `pick` takes from `VAL`, in `n` digits (40_hexcodec.md R102, R104, R106, R108). -/
def hexEncode (n : Nat) (pick : Word → Nat) (s : State) : Host.Outcome State Fault Refusal :=
  finish (s.start .ofVal)
    (do let v ← s.readVal
        encodeField .value (pick v) n)
    (fun t => (s.start .ofVal).out t)

/-- `HEX.DEC*`: an operand of exactly `n` characters (40_hexcodec.md R103, R105, R107, R109). -/
def hexDecode (n : Nat) (s : State) : Host.Outcome State Fault Refusal :=
  finish (s.start .nothing)
    (do let t ← s.fixedInput n
        decodeField .value t)
    (fun v => (s.start .nothing).value v)

/-- `HEX.ENCU` (40_hexcodec.md R100). -/
def execHexEncu (s : State) : Host.Outcome State Fault Refusal :=
  finish (s.start .ofVal)
    (do let v ← s.readVal
        let w ← s.readW
        require (1 ≤ w.toNat ∧ w.toNat ≤ Config.wMax) (.refuse .widthOutside)
        encodeField .value v.toNat w.toNat)
    (fun t => (s.start .ofVal).out t)

/-- `HEX.DECU` (40_hexcodec.md R101). -/
def execHexDecu (s : State) : Host.Outcome State Fault Refusal :=
  finish (s.start .nothing)
    (do require (s.ilen ≤ Config.wMax) (.refuse .operandLength)
        let t ← s.input
        decodeField .value t)
    (fun v => (s.start .nothing).value v)

/-- `HEX.ENCF32`: `VAL[63:32]` is ignored (40_hexcodec.md R102). -/
def execHexEncf32 (s : State) : Host.Outcome State Fault Refusal := hexEncode 8 (fun v => (v.setWidth 32).toNat) s

/-- `HEX.DECF32` (40_hexcodec.md R103). -/
def execHexDecf32 (s : State) : Host.Outcome State Fault Refusal := hexDecode 8 s

/-- `HEX.ENCDS`: a count of seconds (40_hexcodec.md R104). -/
def execHexEncds (s : State) : Host.Outcome State Fault Refusal := hexEncode 2 BitVec.toNat s

/-- `HEX.DECDS`: a count of seconds (40_hexcodec.md R105). -/
def execHexDecds (s : State) : Host.Outcome State Fault Refusal := hexDecode 2 s

/-- `HEX.ENCDM`: a count of minutes (40_hexcodec.md R106). -/
def execHexEncdm (s : State) : Host.Outcome State Fault Refusal := hexEncode 4 BitVec.toNat s

/-- `HEX.DECDM`: a count of minutes (40_hexcodec.md R107). -/
def execHexDecdm (s : State) : Host.Outcome State Fault Refusal := hexDecode 4 s

/-- `HEX.ENCMAC`: the text form of a MAC address (40_hexcodec.md R108). -/
def execHexEncmac (s : State) : Host.Outcome State Fault Refusal := hexEncode 16 BitVec.toNat s

/-- `HEX.DECMAC`: a MAC address from its text form (40_hexcodec.md R109). -/
def execHexDecmac (s : State) : Host.Outcome State Fault Refusal := hexDecode 16 s

end Sys2Proof.Machine
end

