-- ==== Sys2Proof/Machine/Grammar.lean ====
section
/-! DEFINITION. The grammar engine (43_framing.md R176, R177): the encode and decode columns of the field kinds
(30_encoding.md R73 to R79), `match`, `render`, and dispatch (42_registry.md R153). -/

namespace Sys2Proof.Machine

/-- The two characters "01" (30_encoding.md R77). -/
def trueText : List Byte := [0x30, 0x31]

/-- The two characters "00" (30_encoding.md R77). -/
def falseText : List Byte := [0x30, 0x30]

/-- The wire value of a power-buffer field, computed exactly (30_encoding.md R79). -/
def pbValue (v : Nat) : Nat := v * Config.pbScale + Config.pbBase

/-- `enc_k(v)` of payload field `j` (30_encoding.md R73, encode column); a `BOOL` other than 0 or 1 is refused
(43_framing.md R177). -/
def encKind (j : Nat) (k : Kind) (v : Word) : Except Stop (List Byte) :=
  match k with
  | .u w => encodeField (.payload j) v.toNat w.digits
  | .mac => encodeField (.payload j) v.toNat 16
  | .f32 => encodeField (.payload j) v.toNat 8
  | .bool => if v = 1 then .ok trueText else if v = 0 then .ok falseText else refuse (.boolValue j)
  | .durS2 => encodeField (.payload j) v.toNat 2
  | .durM4 => encodeField (.payload j) v.toNat 4
  | .pbaddr => encodeField (.payload j) (pbValue v.toNat) 8

/-- `decU` into a 64-bit register, zero-extended (30_encoding.md R74). -/
def decWord (s : List Byte) : Option Word := (decU s).map (BitVec.ofNat 64)

/-- `dec_k(s)` (30_encoding.md R73, decode column); `none` where the kind has none, `PBADDR`. -/
def decKind (k : Kind) (s : List Byte) : Option Word :=
  match k with
  | .u _ => decWord s
  | .mac => decWord s
  | .f32 => decWord s
  | .bool => some (if s = trueText then 1 else 0)
  | .durS2 => decWord s
  | .durM4 => decWord s
  | .pbaddr => none

/-- The loop of `render(t, f)` from field `j` up (43_framing.md R177). -/
def render (j : Nat) : List Kind → List (Option Word) → Except Stop (List Byte)
  | [], _ => .ok []
  | _ :: _, [] => refuse (.missingField j)
  | _ :: _, none :: _ => refuse (.missingField j)
  | k :: ks, some v :: fs => do
    let a ← encKind j k v
    let rest ← render (j + 1) ks fs
    pure (a ++ rest)

/-- The loop of `match(t, p)`: each group starts where the previous one ended (43_framing.md R176). -/
def extract : List Kind → List Byte → Option (List Word)
  | [], _ => some []
  | k :: ks, p =>
    match decKind k (p.take k.width), extract ks (p.drop k.width) with
    | some v, some vs => some (v :: vs)
    | _, _ => none

/-- The MAC group of a payload, when the variant has one, and what follows it (43_framing.md R176). -/
def macGroup (g : Grammar) (p : List Byte) : Option Word × List Byte :=
  if g.hasMac then (decWord (p.take 16), p.drop 16) else (none, p)

/-- `match(t, p)`: the MAC and the fields of a payload of grammar `g`, the variant's code being `c`
(43_framing.md R176). -/
def matchPayload (g : Grammar) (c : BitVec 16) (p : List Byte) : Except Stop (Option Word × List Word) :=
  if p.length ≠ g.explen ∨ allHex p = false then raise (.payloadMismatch c g.pattern p)
  else
    match extract g.fields (macGroup g p).2 with
    | some fs => .ok ((macGroup g p).1, fs)
    | none => refuse .noDecode

/-- The part of dispatch that follows the lookup (42_registry.md R153): an outbound-only variant has no grammar for an
inbound frame; a grammar that is not supplied is refused. -/
def dispatchTag (vt : VariantTable) (t : Tag) (c : BitVec 16) : Except Stop Grammar :=
  if (vt.get t).dir = some .tx then raise (.unknownMessageType c)
  else
    match (vt.get t).grammar with
    | some g => .ok g
    | none => refuse (.grammarNotSupplied t)

/-- `dispatch(c)`: the variant of a code, and the grammar that will parse the payload (42_registry.md R153). -/
def dispatch (r : Registry) (vt : VariantTable) (c : BitVec 16) : Except Stop (Tag × Grammar) :=
  match r.lookup c with
  | none => raise (.unknownMessageType c)
  | some t => do
    let g ← dispatchTag vt t c
    pure (t, g)

end Sys2Proof.Machine
end

