-- ==== Sys2Proof/Machine/Frame.lean ====
section
/-! DEFINITION. The meanings of the three commands of the FRAME unit (43_framing.md R170 to R172), written over the
variant selected, so that the variants' own instructions share them. -/

namespace Sys2Proof.Machine

/-- The sequence field of an outbound frame: rendered when the variant has one and the message gives one
(43_framing.md R170 step 2). -/
def seqField (row : VtRow) (q : Option (BitVec 16)) : List Byte :=
  match q with
  | some q => if row.seqTx then hex16 q else []
  | none => []

/-- The MAC field of an outbound frame (43_framing.md R170 step 3): a MAC given to a variant without one is ignored. -/
def macField (g : Grammar) (m : Option Word) : Except Stop (List Byte) :=
  if g.hasMac then
    match m with
    | some m => .ok (hex64 m)
    | none => refuse .missingMac
  else .ok []

/-- Fields 1 to 4 of the frame of the message in the message registers, as a message of variant `t`
(43_framing.md R170 steps 1 to 4; 30_encoding.md R71). -/
def frameBody (t : Tag) (s : State) : Except Stop (List Byte) :=
  match (s.vt.get t).grammar with
  | none => refuse (.grammarNotSupplied t)
  | some g => do
    let m ← macField g s.mac
    let p ← render 0 g.fields s.f
    let body := hex16 (s.reg.get t) ++ seqField (s.vt.get t) s.seq ++ m ++ p
    require (body.length + 4 ≤ Config.lMax) (.refuse .tooLong)
    pure body

/-- The outbound frame: the checksum of all that precedes it is appended (43_framing.md R170 step 5, 41_crc.md R135). -/
def withCrc (body : List Byte) : List Byte := body ++ crcHex body

/-- `FRM.ENCODE` of the message in the message registers, as a message of variant `t` (43_framing.md R170). -/
def assemble (t : Tag) (s : State) : Host.Outcome State Fault Refusal :=
  finish (s.start .ofMessage) (frameBody t s)
    (fun body => ((s.start .ofMessage).checksum body).out (withCrc body))

/-- `FRM.ENCODE` (43_framing.md R170). -/
def execFrmEncode (s : State) : Host.Outcome State Fault Refusal :=
  finish (s.start .ofMessage)
    (do let t ← s.readTag
        frameBody t s)
    (fun body => ((s.start .ofMessage).checksum body).out (withCrc body))

/-- What the fields of an inbound frame hold (30_encoding.md R72), with the string its checksum covers. -/
structure InboundFrame where
  tag : Tag
  code : BitVec 16
  seq : BitVec 16
  mac : Option Word
  fields : List Word
  body : List Byte
  sum : BitVec 16
deriving DecidableEq, Repr

/-- The checks of `FRM.PARSE` up to the checksum's own, in the order of its `raise` lines (43_framing.md R171,
60_exceptions.md R267). `select` is the dispatch of the type code; `nregs` is the number of field registers. -/
def splitFrame (select : BitVec 16 → Except Stop (Tag × Grammar)) (nregs : Nat) (s : List Byte) :
    Except Stop InboundFrame := do
  require (4 ≤ s.length) (.raise (.malformedHex .typeCode))
  let c ← decodeField .typeCode (s.take 4)
  let (t, g) ← select (BitVec.ofNat 16 c)
  require (8 ≤ s.length) (.raise (.malformedHex .seq))
  let q ← decodeField .seq ((s.drop 4).take 4)
  require (12 ≤ s.length) (.raise (.malformedHex .crc))
  let (m, fs) ← matchPayload g (BitVec.ofNat 16 c) ((s.drop 8).take (s.length - 12))
  require (fs.length ≤ nregs) (.refuse .noFieldRegister)
  let r ← decodeField .crc (s.drop (s.length - 4))
  pure { tag := t, code := BitVec.ofNat 16 c, seq := BitVec.ofNat 16 q, mac := m, fields := fs,
         body := s.take (s.length - 4), sum := BitVec.ofNat 16 r }

/-- The last check of `FRM.PARSE`, the checksum, and its writes (43_framing.md R171, 41_crc.md R136). The CRC unit has
computed the checksum in either case (log 4). -/
def verify (m : InboundFrame) (s0 : State) : State :=
  if m.sum = crc16 m.body then (s0.checksum m.body).message m.tag m.code (some m.seq) m.mac m.fields
  else (s0.checksum m.body).fail .checksumMismatch

/-- `FRM.PARSE` with the given dispatch (43_framing.md R171). -/
def parseFrame (select : BitVec 16 → Except Stop (Tag × Grammar)) (s : State) : Host.Outcome State Fault Refusal :=
  finish (s.start .nothing)
    (do let t ← s.input
        splitFrame select s.f.length t)
    (fun m => verify m (s.start .nothing))

/-- `FRM.PARSE` (43_framing.md R171). -/
def execFrmParse (s : State) : Host.Outcome State Fault Refusal := parseFrame (dispatch s.reg s.vt) s

/-- `match` for a payload that the transport has split off, with the bound of the field registers. -/
def matchMessage (g : Grammar) (c : BitVec 16) (nregs : Nat) (p : List Byte) :
    Except Stop (Option Word × List Word) := do
  let (m, fs) ← matchPayload g c p
  require (fs.length ≤ nregs) (.refuse .noFieldRegister)
  pure (m, fs)

/-- `MSG.DECODE` (43_framing.md R172): no checksum is verified, and the sequence number is passed through. -/
def execMsgDecode (s : State) : Host.Outcome State Fault Refusal :=
  finish (s.start .ofSeq)
    (do require (4 ≤ s.ilen) (.refuse .operandLength)
        let x ← s.input
        let c ← decodeField .typeCode (x.take 4)
        let (t, g) ← dispatch s.reg s.vt (BitVec.ofNat 16 c)
        let (m, fs) ← matchMessage g (BitVec.ofNat 16 c) s.f.length (x.drop 4)
        pure (t, BitVec.ofNat 16 c, m, fs))
    (fun (t, c, m, fs) => (s.start .ofSeq).message t c s.seq m fs)

end Sys2Proof.Machine
end

