-- ==== Sys2Proof/Machine/Variants.lean ====
section
/-! DEFINITION. The meanings of the 23 message variants (44_payload_grammars.md R201 to R223). A variant is selected by
its type code, as an instruction by its opcode (30_encoding.md, opening); its grammar is its row of `VT`. Each has the
three forms of log 10: the encode of R170, the parse of R171 and the decode of the pair (sequence number, payload) of
90_conflicts.md C2, with the type code implied by the variant. -/

namespace Sys2Proof.Machine

/-- The message registers as a message of variant `t`: `M.TAG = t` and `M.CODE = CODE(t)` (10_state.md R26). -/
def State.asVariant (t : Tag) (s : State) : State := { s with tag := some t, code := some (s.reg.get t) }

/-- Encode a message of variant `t`: `FRM.ENCODE` with `M.TAG = t` (43_framing.md R170, 42_registry.md R154). -/
def encodeAs (t : Tag) (s : State) : Host.Outcome State Fault Refusal := assemble t (s.asVariant t)

/-- The dispatch of a frame whose type code is the variant's (42_registry.md R153); a frame of another code is not this
instruction (log 10). -/
def selectOnly (r : Registry) (vt : VariantTable) (t : Tag) (c : BitVec 16) : Except Stop (Tag × Grammar) := do
  require (c = r.get t) (.refuse .otherVariant)
  let g ← dispatchTag vt t c
  pure (t, g)

/-- Parse an inbound frame of variant `t` (43_framing.md R171). -/
def parseAs (t : Tag) (s : State) : Host.Outcome State Fault Refusal := parseFrame (selectOnly s.reg s.vt t) s

/-- Decode a payload of variant `t`, MAC first, which is the whole input string (90_conflicts.md C2; 43 R172). -/
def decodeAs (t : Tag) (s : State) : Host.Outcome State Fault Refusal :=
  finish (s.start .ofSeq)
    (do let p ← s.input
        let g ← dispatchTag s.vt t (s.reg.get t)
        matchMessage g (s.reg.get t) s.f.length p)
    (fun (m, fs) => (s.start .ofSeq).message t (s.reg.get t) s.seq m fs)

/-- The three forms of a variant. -/
def execVariant (t : Tag) (op : MsgOp) (s : State) : Host.Outcome State Fault Refusal :=
  match op with
  | .encode => encodeAs t s
  | .parse => parseAs t s
  | .decode => decodeAs t s

/-- `CLOCK_GET_REQ` (44_payload_grammars.md R201). -/
def execClockGetReq (op : MsgOp) (s : State) : Host.Outcome State Fault Refusal := execVariant .clockGetReq op s

/-- `CLOCK_GET_RESP` (44_payload_grammars.md R202). -/
def execClockGetResp (op : MsgOp) (s : State) : Host.Outcome State Fault Refusal := execVariant .clockGetResp op s

/-- `DEVICE_INFO_REQ` (44_payload_grammars.md R203). -/
def execDeviceInfoReq (op : MsgOp) (s : State) : Host.Outcome State Fault Refusal := execVariant .deviceInfoReq op s

/-- `DEVICE_INFO_RESP` (44_payload_grammars.md R204). -/
def execDeviceInfoResp (op : MsgOp) (s : State) : Host.Outcome State Fault Refusal := execVariant .deviceInfoResp op s

/-- `LIGHT_CALIBRATION_REQ` (44_payload_grammars.md R205). -/
def execLightCalibrationReq (op : MsgOp) (s : State) : Host.Outcome State Fault Refusal := execVariant .lightCalibrationReq op s

/-- `MODULE_JOINED_NETWORK_REQ` (44_payload_grammars.md R206). -/
def execModuleJoinedNetworkReq (op : MsgOp) (s : State) : Host.Outcome State Fault Refusal := execVariant .moduleJoinedNetworkReq op s

/-- `NETWORK_RESET_REQ` (44_payload_grammars.md R207). -/
def execNetworkResetReq (op : MsgOp) (s : State) : Host.Outcome State Fault Refusal := execVariant .networkResetReq op s

/-- `NETWORK_STATUS_REQ` (44_payload_grammars.md R208). -/
def execNetworkStatusReq (op : MsgOp) (s : State) : Host.Outcome State Fault Refusal := execVariant .networkStatusReq op s

/-- `NODE_AVAILABLE_REQ` (44_payload_grammars.md R209). -/
def execNodeAvailableReq (op : MsgOp) (s : State) : Host.Outcome State Fault Refusal := execVariant .nodeAvailableReq op s

/-- `NODE_AVAILABLE_RESP` (44_payload_grammars.md R210). -/
def execNodeAvailableResp (op : MsgOp) (s : State) : Host.Outcome State Fault Refusal := execVariant .nodeAvailableResp op s

/-- `PING_REQ` (44_payload_grammars.md R211). -/
def execPingReq (op : MsgOp) (s : State) : Host.Outcome State Fault Refusal := execVariant .pingReq op s

/-- `POWER_BUFFER_REQ` (44_payload_grammars.md R212). -/
def execPowerBufferReq (op : MsgOp) (s : State) : Host.Outcome State Fault Refusal := execVariant .powerBufferReq op s

/-- `POWER_CALIBRATION_REQ` (44_payload_grammars.md R213). -/
def execPowerCalibrationReq (op : MsgOp) (s : State) : Host.Outcome State Fault Refusal := execVariant .powerCalibrationReq op s

/-- `POWER_CALIBRATION_RESP` (44_payload_grammars.md R214). -/
def execPowerCalibrationResp (op : MsgOp) (s : State) : Host.Outcome State Fault Refusal := execVariant .powerCalibrationResp op s

/-- `POWER_CHANGE_REQ` (44_payload_grammars.md R215). -/
def execPowerChangeReq (op : MsgOp) (s : State) : Host.Outcome State Fault Refusal := execVariant .powerChangeReq op s

/-- `POWER_INFO_REQ` (44_payload_grammars.md R216). -/
def execPowerInfoReq (op : MsgOp) (s : State) : Host.Outcome State Fault Refusal := execVariant .powerInfoReq op s

/-- `POWER_INFO_RESP` (44_payload_grammars.md R217). -/
def execPowerInfoResp (op : MsgOp) (s : State) : Host.Outcome State Fault Refusal := execVariant .powerInfoResp op s

/-- `POWER_LOG_INTERVAL_SET_REQ` (44_payload_grammars.md R218). -/
def execPowerLogIntervalSetReq (op : MsgOp) (s : State) : Host.Outcome State Fault Refusal := execVariant .powerLogIntervalSetReq op s

/-- `RTC_GET_REQ` (44_payload_grammars.md R219). -/
def execRtcGetReq (op : MsgOp) (s : State) : Host.Outcome State Fault Refusal := execVariant .rtcGetReq op s

/-- `ROLE_CALL_REQ` (44_payload_grammars.md R220). -/
def execRoleCallReq (op : MsgOp) (s : State) : Host.Outcome State Fault Refusal := execVariant .roleCallReq op s

/-- `SENSE_REPORT_REQ` (44_payload_grammars.md R221). -/
def execSenseReportReq (op : MsgOp) (s : State) : Host.Outcome State Fault Refusal := execVariant .senseReportReq op s

/-- `SLEEP_SET_REQ` (44_payload_grammars.md R222). -/
def execSleepSetReq (op : MsgOp) (s : State) : Host.Outcome State Fault Refusal := execVariant .sleepSetReq op s

/-- `BROADCAST_GROUP_SWITCH_RESP` (44_payload_grammars.md R223). -/
def execBroadcastGroupSwitchResp (op : MsgOp) (s : State) : Host.Outcome State Fault Refusal := execVariant .broadcastGroupSwitchResp op s

end Sys2Proof.Machine
end

