-- ==== Sys2Proof/Machine/Dispatch.lean ====
section
/-! DEFINITION. One arm per instruction, each one direct call of its meaning. -/

namespace Sys2Proof.Machine

def exec (i : Instr) (s : State) : Host.Outcome State Fault Refusal :=
  match i with
  | .hexEncu => Sys2Proof.Machine.execHexEncu s
  | .hexDecu => Sys2Proof.Machine.execHexDecu s
  | .hexEncf32 => Sys2Proof.Machine.execHexEncf32 s
  | .hexDecf32 => Sys2Proof.Machine.execHexDecf32 s
  | .hexEncds => Sys2Proof.Machine.execHexEncds s
  | .hexDecds => Sys2Proof.Machine.execHexDecds s
  | .hexEncdm => Sys2Proof.Machine.execHexEncdm s
  | .hexDecdm => Sys2Proof.Machine.execHexDecdm s
  | .hexEncmac => Sys2Proof.Machine.execHexEncmac s
  | .hexDecmac => Sys2Proof.Machine.execHexDecmac s
  | .crcCompute => Sys2Proof.Machine.execCrcCompute s
  | .regFromcode => Sys2Proof.Machine.execRegFromcode s
  | .regTocode => Sys2Proof.Machine.execRegTocode s
  | .frmEncode => Sys2Proof.Machine.execFrmEncode s
  | .frmParse => Sys2Proof.Machine.execFrmParse s
  | .msgDecode => Sys2Proof.Machine.execMsgDecode s
  | .clockGetReq op => Sys2Proof.Machine.execClockGetReq op s
  | .clockGetResp op => Sys2Proof.Machine.execClockGetResp op s
  | .deviceInfoReq op => Sys2Proof.Machine.execDeviceInfoReq op s
  | .deviceInfoResp op => Sys2Proof.Machine.execDeviceInfoResp op s
  | .lightCalibrationReq op => Sys2Proof.Machine.execLightCalibrationReq op s
  | .moduleJoinedNetworkReq op => Sys2Proof.Machine.execModuleJoinedNetworkReq op s
  | .networkResetReq op => Sys2Proof.Machine.execNetworkResetReq op s
  | .networkStatusReq op => Sys2Proof.Machine.execNetworkStatusReq op s
  | .nodeAvailableReq op => Sys2Proof.Machine.execNodeAvailableReq op s
  | .nodeAvailableResp op => Sys2Proof.Machine.execNodeAvailableResp op s
  | .pingReq op => Sys2Proof.Machine.execPingReq op s
  | .powerBufferReq op => Sys2Proof.Machine.execPowerBufferReq op s
  | .powerCalibrationReq op => Sys2Proof.Machine.execPowerCalibrationReq op s
  | .powerCalibrationResp op => Sys2Proof.Machine.execPowerCalibrationResp op s
  | .powerChangeReq op => Sys2Proof.Machine.execPowerChangeReq op s
  | .powerInfoReq op => Sys2Proof.Machine.execPowerInfoReq op s
  | .powerInfoResp op => Sys2Proof.Machine.execPowerInfoResp op s
  | .powerLogIntervalSetReq op => Sys2Proof.Machine.execPowerLogIntervalSetReq op s
  | .rtcGetReq op => Sys2Proof.Machine.execRtcGetReq op s
  | .roleCallReq op => Sys2Proof.Machine.execRoleCallReq op s
  | .senseReportReq op => Sys2Proof.Machine.execSenseReportReq op s
  | .sleepSetReq op => Sys2Proof.Machine.execSleepSetReq op s
  | .broadcastGroupSwitchResp op => Sys2Proof.Machine.execBroadcastGroupSwitchResp op s

end Sys2Proof.Machine
end

