-- ==== Sys2Proof/Machine/Run.lean ====
section
/-! DEFINITION. How the block takes one input of the host: the word is decoded, the input record goes to the operand
registers, and the command runs (00_scope.md R9, 70_reset_and_hazards.md R294; log 1). -/

namespace Sys2Proof.Machine

/-- A word that is no instruction. A type field that is malformed or unregistered is the error the document names for an
inbound frame (60_exceptions.md R261, R264); anything else cannot be given to the block and is refused (log 11). -/
def badWord (e : DecodeError) (s : State) : Host.Outcome State Fault Refusal :=
  match e with
  | .length _ => .refused .noSuchWord
  | .command _ => .refused .noSuchWord
  | .msgOp _ => .refused .noSuchWord
  | .typeField .encode => .refused .noSuchWord
  | .typeField .parse => .next ((s.start .nothing).fail (.malformedHex .typeCode))
  | .typeField .decode => .next ((s.start .ofSeq).fail (.malformedHex .typeCode))
  | .unknownType .encode _ => .refused .noSuchWord
  | .unknownType .parse c => .next ((s.start .nothing).fail (.unknownMessageType c))
  | .unknownType .decode c => .next ((s.start .ofSeq).fail (.unknownMessageType c))

/-- One command with its input record, from start to end (70_reset_and_hazards.md R294). -/
def runCommand (word : List Byte) (o : Operands) (s : State) : Host.Outcome State Fault Refusal :=
  if s.f.length < o.fields.length then .refused .noFieldRegister
  else
    match decode s.reg word with
    | .ok i => exec i (s.load o)
    | .error e => badWord e (s.load o)

/-- One input of the host. -/
def runInput (x : HostInput) (s : State) : Host.Outcome State Fault Refusal :=
  match x with
  | .command word o => runCommand word o s
  | .reset => .next s.hostReset

/-- The input that runs a word: the word and the least input record of its instruction (log 1). -/
def inputOfWord (r : Registry) (word : List Byte) : HostInput :=
  match decode r word with
  | .ok i => .command word (leastOperands r i)
  | .error _ => .command word {}

end Sys2Proof.Machine
end

