-- ==== Sys2Proof/Machine/Step.lean ====
section
/-! DEFINITION. One step of the block: it takes the oldest input of the host and runs it as one atomic step
(00_scope.md R9, 20_memory.md R59, 70_reset_and_hazards.md R294). -/

namespace Sys2Proof.Machine

/-- One step. With no input given the block does nothing (log 13). -/
def step (s : State) : Host.Outcome State Fault Refusal :=
  match s.queue with
  | [] => .next s
  | x :: rest => runInput x { s with queue := rest }

/-- The state whose next step runs the word given as the opcode table numbers it: the host's next input is that word
with the least input record its command takes (log 1). -/
def State.withFetchWord (s : State) (nbits w : Nat) : State :=
  { s with queue := inputOfWord s.reg (tableBytes nbits w) :: s.queue }

end Sys2Proof.Machine
end

