-- ==== Sys2Proof/Machine/Accessors.lean ====
section
/-! DEFINITION. What the host reads of the block: the results of a command, while `ST = PARSED`
(70_reset_and_hazards.md R293), the typed accessors of a message's fields under the names of 44_payload_grammars.md
(43_framing.md R179), and the Energy values derived from them (44 R231). None of these is state (10_state.md R34). -/

namespace Sys2Proof.Machine

/-- The field names of 44_payload_grammars.md. -/
inductive FieldName where
  | logAddress
  | gainA
  | gainB
  | offsetTotal
  | offsetNoise
  | powerState
  | oneSecondPulses
  | eightSecondPulses
  | oneHourConsumedPulses
  | oneHourProducedPulses
  | secondsCorrectionRaw
  | nodeId
  | humidityRaw
  | temperatureRaw
  | portMask
deriving DecidableEq, Repr

/-- The names of a variant's payload fields in grammar order, `F[0]` first (44_payload_grammars.md R201 to R223). The
document names none of a variant whose field list is OPEN. -/
def fieldNames : Tag → List FieldName
  | .clockGetReq => []
  | .clockGetResp => []
  | .deviceInfoReq => []
  | .deviceInfoResp => []
  | .lightCalibrationReq => []
  | .moduleJoinedNetworkReq => []
  | .networkResetReq => []
  | .networkStatusReq => []
  | .nodeAvailableReq => []
  | .nodeAvailableResp => []
  | .pingReq => []
  | .powerBufferReq => [.logAddress]
  | .powerCalibrationReq => []
  | .powerCalibrationResp => [.gainA, .gainB, .offsetTotal, .offsetNoise]
  | .powerChangeReq => [.powerState]
  | .powerInfoReq => []
  | .powerInfoResp => [.oneSecondPulses, .eightSecondPulses,
     .oneHourConsumedPulses, .oneHourProducedPulses, .secondsCorrectionRaw]
  | .powerLogIntervalSetReq => []
  | .rtcGetReq => []
  | .roleCallReq => [.nodeId]
  | .senseReportReq => [.humidityRaw, .temperatureRaw]
  | .sleepSetReq => []
  | .broadcastGroupSwitchResp => [.portMask, .powerState]

/-- The string result of a command: `OB[0 .. OLEN-1]`, which holds a value only while `ST = PARSED` (10_state.md R28). -/
def State.output (s : State) : Option (List Byte) :=
  if s.st = .parsed then s.ob.readString 0 s.olen else none

/-- A typed accessor (43_framing.md R179): the field of that name of the message in the registers; `none` where there is
no such field or `ST` is not `PARSED` (70 R293). -/
def State.accessor (n : FieldName) (s : State) : Option Word :=
  if s.st = .parsed then
    match s.tag with
    | some t =>
      match (fieldNames t).findIdx? (fun m => m == n) with
      | some j => s.fieldReg j
      | none => none
    | none => none
  else none

/-- The time basis of an Energy (44_payload_grammars.md R231). -/
inductive Basis where
  | seconds (q : Rat)
  | oneHour
deriving DecidableEq, Repr

/-- An Energy: "pulse count + time basis" (44_payload_grammars.md R231). -/
structure Energy where
  pulses : Nat
  basis : Basis
deriving DecidableEq, Repr

/-- The seconds correction `corr = raw/46875`, an exact rational (44_payload_grammars.md R231). -/
def State.corr (s : State) : Option Rat :=
  (s.accessor .secondsCorrectionRaw).map (fun r => (r.toNat : Rat) / (Config.corrDiv : Rat))

/-- The correction factor as the block's number format renders it (`FDIV`; 44_payload_grammars.md R231, log 9). -/
def State.correctionFactor (s : State) : Option Rat := s.corr.map Config.fdiv

/-- An Energy over a number of seconds to which the correction is added. -/
def State.energySeconds (n : FieldName) (base : Rat) (s : State) : Option Energy :=
  match s.accessor n, s.corr with
  | some p, some c => some { pulses := p.toNat, basis := .seconds (base + c) }
  | _, _ => none

/-- `energyOneSecond` (44_payload_grammars.md R231). -/
def State.energyOneSecond (s : State) : Option Energy := s.energySeconds .oneSecondPulses 1

/-- `energyEightSec` (44_payload_grammars.md R231). -/
def State.energyEightSec (s : State) : Option Energy := s.energySeconds .eightSecondPulses 8

/-- An Energy over one hour, which is not corrected (44_payload_grammars.md R231, D15). -/
def State.energyHour (n : FieldName) (s : State) : Option Energy :=
  (s.accessor n).map (fun p => { pulses := p.toNat, basis := .oneHour })

/-- `energyHourCons` (44_payload_grammars.md R231). -/
def State.energyHourCons (s : State) : Option Energy := s.energyHour .oneHourConsumedPulses

/-- `energyHourProd` (44_payload_grammars.md R231). -/
def State.energyHourProd (s : State) : Option Energy := s.energyHour .oneHourProducedPulses

end Sys2Proof.Machine
end

