-- ==== Sys2Proof/WellFormed.lean ====
section
/-! DEFINITION. Well-formedness: which input record gives a command a meaning (30_encoding.md R90, 60_exceptions.md R275).
A registry's and a variant table's own checks stand with the tables (Machine/Tables.lean: `Registry.wf`, `VtRow.ok`). -/

namespace Sys2Proof

/-- A value that a field of the kind may be given on encode: a `BOOL` is 0 or 1 (43_framing.md R177); whether any other
value fits its width is not a matter of form but of `FieldOverflow` (R178). -/
def Kind.admits (k : Kind) (v : Word) : Bool :=
  match k with
  | .u _ => true
  | .mac => true
  | .f32 => true
  | .bool => v == 0 || v == 1
  | .durS2 => true
  | .durM4 => true
  | .pbaddr => true

/-- Every field of the list has a value it may be given (43_framing.md R177). -/
def fieldsAdmitted : List Kind → List (Option Word) → Bool
  | [], _ => true
  | _ :: _, [] => false
  | _ :: _, none :: _ => false
  | k :: ks, some v :: fs => k.admits v && fieldsAdmitted ks fs

/-- A message of variant `t` that `FRM.ENCODE` gives a meaning (43_framing.md R170): its grammar is supplied, it has the
MAC the variant addresses and every payload field, and its frame fits the output buffer. -/
def messageAdmitted (vt : VariantTable) (t : Tag) (o : Operands) : Bool :=
  match (vt.get t).grammar with
  | none => false
  | some g =>
    (!g.hasMac || o.mac.isSome) && fieldsAdmitted g.fields o.fields &&
      decide (8 + (if (vt.get t).seqTx && o.seq.isSome then 4 else 0) + g.explen ≤ Config.lMax)

/-- A variant that an inbound frame may select: outbound only, which is an error of the document, or with a grammar that
is supplied (42_registry.md R153). -/
def dispatchAdmitted (vt : VariantTable) (t : Tag) : Bool :=
  (vt.get t).dir == some .tx || (vt.get t).grammar.isSome

/-- A string whose type code, where it has one that is registered, selects a variant `ok`. -/
def typeAdmitted (r : Registry) (ok : Tag → Bool) (s : List Byte) : Bool :=
  match decU (s.take 4) with
  | none => true
  | some c =>
    match r.lookup (BitVec.ofNat 16 c) with
    | none => true
    | some t => ok t

/-- The three forms of a variant. -/
def Tag.admits (r : Registry) (vt : VariantTable) (t : Tag) (op : MsgOp) (o : Operands) : Bool :=
  match op with
  | .encode => messageAdmitted vt t o
  | .parse =>
    decide (o.ib.length < 4) ||
      (match decU (o.ib.take 4) with
        | none => true
        | some c => BitVec.ofNat 16 c == r.get t && dispatchAdmitted vt t)
  | .decode => dispatchAdmitted vt t

/-- The instruction has a meaning on the input record, in a block with `nf` field registers. -/
def Instr.wf (r : Registry) (vt : VariantTable) (nf : Nat) (i : Instr) (o : Operands) : Bool :=
  decide (o.fields.length ≤ nf) && decide (o.ib.length ≤ Config.lMax) &&
    (match i with
      | .hexEncu =>
        o.val.isSome &&
          (match o.w with
            | some w => decide (1 ≤ w.toNat) && decide (w.toNat ≤ Config.wMax)
            | none => false)
      | .hexDecu => decide (o.ib.length ≤ Config.wMax)
      | .hexEncf32 => o.val.isSome
      | .hexDecf32 => decide (o.ib.length = 8)
      | .hexEncds => o.val.isSome
      | .hexDecds => decide (o.ib.length = 2)
      | .hexEncdm => o.val.isSome
      | .hexDecdm => decide (o.ib.length = 4)
      | .hexEncmac => o.val.isSome
      | .hexDecmac => decide (o.ib.length = 16)
      | .crcCompute => true
      | .regFromcode => decide (o.ib.length = 4)
      | .regTocode => o.tag.isSome
      | .frmEncode => (o.tag.map (fun t => messageAdmitted vt t o)).getD false
      | .frmParse => decide (o.ib.length < 4) || typeAdmitted r (dispatchAdmitted vt) o.ib
      | .msgDecode => decide (4 ≤ o.ib.length) && typeAdmitted r (dispatchAdmitted vt) o.ib
      | .clockGetReq op => Tag.admits r vt .clockGetReq op o
      | .clockGetResp op => Tag.admits r vt .clockGetResp op o
      | .deviceInfoReq op => Tag.admits r vt .deviceInfoReq op o
      | .deviceInfoResp op => Tag.admits r vt .deviceInfoResp op o
      | .lightCalibrationReq op => Tag.admits r vt .lightCalibrationReq op o
      | .moduleJoinedNetworkReq op => Tag.admits r vt .moduleJoinedNetworkReq op o
      | .networkResetReq op => Tag.admits r vt .networkResetReq op o
      | .networkStatusReq op => Tag.admits r vt .networkStatusReq op o
      | .nodeAvailableReq op => Tag.admits r vt .nodeAvailableReq op o
      | .nodeAvailableResp op => Tag.admits r vt .nodeAvailableResp op o
      | .pingReq op => Tag.admits r vt .pingReq op o
      | .powerBufferReq op => Tag.admits r vt .powerBufferReq op o
      | .powerCalibrationReq op => Tag.admits r vt .powerCalibrationReq op o
      | .powerCalibrationResp op => Tag.admits r vt .powerCalibrationResp op o
      | .powerChangeReq op => Tag.admits r vt .powerChangeReq op o
      | .powerInfoReq op => Tag.admits r vt .powerInfoReq op o
      | .powerInfoResp op => Tag.admits r vt .powerInfoResp op o
      | .powerLogIntervalSetReq op => Tag.admits r vt .powerLogIntervalSetReq op o
      | .rtcGetReq op => Tag.admits r vt .rtcGetReq op o
      | .roleCallReq op => Tag.admits r vt .roleCallReq op o
      | .senseReportReq op => Tag.admits r vt .senseReportReq op o
      | .sleepSetReq op => Tag.admits r vt .sleepSetReq op o
      | .broadcastGroupSwitchResp op => Tag.admits r vt .broadcastGroupSwitchResp op o)

end Sys2Proof
end

