-- ==== Sys2Proof/Safety.lean ====
section
/-! DEFINITION. The terms claims about runs use: the invariant of the block, a safe state, and what of a state no later
command can tell apart. -/

namespace Sys2Proof.Machine

/-- A buffer holds exactly the characters below its length, in the canonical form (20_memory.md R50; log 12). -/
def Memory.Holds (m : Memory) (n : Nat) : Prop := ∃ t : List Byte, m = Memory.ofString t ∧ n = t.length

/-- The invariant of the block. -/
structure State.Inv (s : State) : Prop where
  /-- `REG` is a registry (42_registry.md R150). -/
  registry : s.reg.wf = true
  /-- `VT` is a variant table (30_encoding.md R80). -/
  variants : VariantTable.wf s.f.length s.vt = true
  /-- There are at least five field registers (00_scope.md R10). -/
  fieldRegisters : 5 ≤ s.f.length
  /-- `IB` and `ILEN` (20_memory.md R50). -/
  inputBuffer : s.ib.Holds s.ilen
  /-- `OB` and `OLEN` (20_memory.md R50). -/
  outputBuffer : s.ob.Holds s.olen
  /-- `OLEN` is at most `L_MAX` (20_memory.md R50). -/
  outputFits : s.olen ≤ Config.lMax
  /-- `ERR` holds something exactly after a failed command (10_state.md R25). -/
  errorRecord : s.err.isSome = true ↔ s.st = .failed
  /-- The model's record of a refusal is held only while `ST = UNPARSED` (60_exceptions.md R275). -/
  refusalRecord : s.refusal.isSome = true → s.st = .unparsed
  /-- No string result without `PARSED` (10_state.md R28). -/
  resultsWhenParsed : s.st ≠ .parsed → s.olen = 0
  /-- `M.CODE` is the code of `M.TAG` (10_state.md R26). -/
  codeOfTag : ∀ t c, s.tag = some t → s.code = some c → c = s.reg.get t

/-- A safe state: its next step is a next state, no stop. -/
def State.Safe (s : State) : Prop := ∃ t, step s = .next t

/-- What the host can tell of a state: everything but the CRC register, whose "value between commands is not
observable" (10_state.md R23), and the inputs still to come. -/
def State.observable (s : State) : State := { s with crc := 0, queue := [] }

/-- The outcome of a step as the host sees it. -/
def observed (x : Host.Outcome State Fault Refusal) : Host.Outcome State Fault Refusal :=
  match x with
  | .next t => .next t.observable
  | .fault r => .fault r
  | .refused r => .refused r

/-- The state of a block whose registers hold no value at all, its input buffer, `W`, `CRC` and tables as they are: what
a command that ends `PARSED` adds its results to. -/
def State.blank (s : State) : State :=
  { s with
    st := .parsed
    err := none
    refusal := none
    ob := []
    olen := 0
    val := none
    tag := none
    code := none
    seq := none
    mac := none
    f := List.replicate s.f.length none }

/-- The state after an error that leaves no register a value (60_exceptions.md R266). -/
def State.blankFailed (e : CodecError) (s : State) : State := { s.blank with st := .failed, err := some e }

/-- The state after a refusal that leaves no register a value (60_exceptions.md R275; the record of the reason is log 5). -/
def State.blankRefused (r : RefusalReason) (s : State) : State := { s.blank with st := .unparsed, refusal := some r }

/-- The state of a block whose message registers are as they were, all else as in `State.blank`: what a command that
encodes the message adds its results to (43_framing.md R170: "the message registers are not modified"). -/
def State.messageKept (s : State) : State :=
  { s with
    st := .parsed
    err := none
    refusal := none
    ob := []
    olen := 0
    val := none }

/-- The state after the encoding of a message is refused (60_exceptions.md R275; the record of the reason is log 5). -/
def State.messageRefused (r : RefusalReason) (s : State) : State :=
  { s.messageKept with st := .unparsed, refusal := some r }

/-- No message register holds a value (10_state.md R26, R27). -/
def State.NoMessage (s : State) : Prop :=
  s.tag = none ∧ s.code = none ∧ s.seqv = false ∧ s.macv = false ∧ ∀ j, s.fv j = false

/-- `IB` holds a string that is no longer than the buffer (20_memory.md R50). -/
def State.HoldsInput (s : State) (x : List Byte) : Prop :=
  s.ilen = x.length ∧ x.length ≤ Config.lMax ∧ s.ib.readString 0 x.length = some x

end Sys2Proof.Machine

namespace Sys2Proof

/-- The `w` upper-case digits of `v`, the digit at index `i` carrying `v[4(w-i)-1 : 4(w-i-1)]` (20_memory.md R53). -/
def digitString (w v : Nat) : List Byte := (List.range w).map (fun i => hexChar (v / 16 ^ (w - 1 - i) % 16))

/-- The number a string of hex digits stands for, its last digit least significant (20_memory.md R53). -/
def digitValue (s : List Byte) : Nat := Nat.ofDigits 16 (s.reverse.map hexVal)

/-- The number that is rendered for a field value: the value itself, but for the power-buffer field
(30_encoding.md R79). -/
def Kind.wire (k : Kind) (v : Word) : Nat :=
  match k with
  | .u _ => v.toNat
  | .mac => v.toNat
  | .f32 => v.toNat
  | .bool => v.toNat
  | .durS2 => v.toNat
  | .durM4 => v.toNat
  | .pbaddr => v.toNat * 32 + 278528

/-- A value that a field of the kind can hold: within its width (30_encoding.md R73), and a `BOOL` 0 or 1. -/
def Kind.fits (k : Kind) (v : Word) : Prop := k.admits v = true ∧ k.wire v < 16 ^ k.width

/-- The digits of a field value on the wire (30_encoding.md R73). -/
def Kind.text (k : Kind) (v : Word) : List Byte := digitString k.width (k.wire v)

/-- Every field has a value that fits. -/
def allFit : List Kind → List Word → Prop
  | [], [] => True
  | k :: ks, v :: vs => k.fits v ∧ allFit ks vs
  | _, _ => False

/-- The payload of a list of field values, after the MAC (43_framing.md R177). -/
def payloadText (ks : List Kind) (vs : List Word) : List Byte := (List.zipWith Kind.text ks vs).flatten

/-- Where field `j` begins in the payload region: after the MAC, if the variant has one, and the fields before it
(43_framing.md R176). -/
def Grammar.offset (g : Grammar) (j : Nat) : Nat :=
  (if g.hasMac then 16 else 0) + ((g.fields.take j).map Kind.width).sum

/-- The characters of field `j` in a payload region. -/
def Grammar.group (g : Grammar) (j : Nat) (k : Kind) (p : List Byte) : List Byte := (p.drop (g.offset j)).take k.width

/-- The value of a group of hex digits of the kind (30_encoding.md R73, decode column). -/
def Kind.valueOf (k : Kind) (s : List Byte) : Word :=
  match k with
  | .u _ => BitVec.ofNat 64 (digitValue s)
  | .mac => BitVec.ofNat 64 (digitValue s)
  | .f32 => BitVec.ofNat 64 (digitValue s)
  | .bool => if s = [0x30, 0x31] then 1 else 0
  | .durS2 => BitVec.ofNat 64 (digitValue s)
  | .durM4 => BitVec.ofNat 64 (digitValue s)
  | .pbaddr => 0

/-- `fs` are the field values of payload `p` (43_framing.md R176: capture-group order is field order). -/
def Grammar.Extracts (g : Grammar) (p : List Byte) (fs : List Word) : Prop :=
  fs.length = g.fields.length ∧ ∀ (j : Nat) (k : Kind), g.fields[j]? = some k → fs[j]? = some (k.valueOf (g.group j k p))

/-- The MAC of a payload (43_framing.md R176). -/
def Grammar.macOf (g : Grammar) (p : List Byte) : Option Word :=
  if g.hasMac then some (BitVec.ofNat 64 (digitValue (p.take 16))) else none

/-- The first four fields of an outbound frame (30_encoding.md R71). -/
def outboundBody (code : BitVec 16) (seqTx : Bool) (seq : Option (BitVec 16)) (mac : Option Word) (payload : List Byte) :
    List Byte :=
  digitString 4 code.toNat ++
    (match seq with
      | some q => if seqTx then digitString 4 q.toNat else []
      | none => []) ++
    (match mac with
      | some m => digitString 16 m.toNat
      | none => []) ++ payload

/-- An outbound frame: its body and the checksum of it (30_encoding.md R71, 41_crc.md R135). -/
def outboundFrame (body : List Byte) : List Byte := body ++ digitString 4 (crc16 body).toNat

end Sys2Proof
end

