-- ==== Sys2Proof/Certificates/Slice0/Obligations.lean ====
section
/-! DEFINITION. The statements about the model, for the provers. Each docstring names the rule of spec/ it formalises. The
vocabulary they use beside the model's own (`State.blank`, `digitString`, `Kind.text`, `Grammar.group`, ...) is defined in
Sys2Proof/Safety.lean, apart from the functions the meanings call. -/

open Sys2Proof Sys2Proof.Machine

/-! ### Words and steps -/

/-- Words written out from 30_encoding.md R90 and R71 decode to the instructions they stand for; a character above `0x0F`
is none. That a command code stands in one byte, and what other bytes are, is the model's (log 11), and so is the
five-character word of a variant (log 10), here under the test registry, whose codes are presumed (log 6). -/
def Obligations.WordsDecodeToTheirInstructions : Prop :=
  decode testRegistry [0x00] = .ok .hexEncu ∧ decode testRegistry [0x01] = .ok .hexDecu ∧
    decode testRegistry [0x08] = .ok .hexEncmac ∧ decode testRegistry [0x0A] = .ok .crcCompute ∧
    decode testRegistry [0x0B] = .ok .regFromcode ∧ decode testRegistry [0x0C] = .ok .regTocode ∧
    decode testRegistry [0x0D] = .ok .frmEncode ∧ decode testRegistry [0x0E] = .ok .frmParse ∧
    decode testRegistry [0x0F] = .ok .msgDecode ∧
    decode testRegistry [0x0E, 0x30, 0x31, 0x30, 0x35] = .ok (.senseReportReq .parse) ∧
    decode testRegistry [0x0D, 0x30, 0x30, 0x31, 0x37] = .ok (.powerChangeReq .encode) ∧
    decode testRegistry [0x10] = .error (.command 0x10)

/-- The decoder gives back every instruction of every registry from its word. The words are the model's (logs 10, 11). -/
def Obligations.DecodeOfEncodeIsTheInstruction : Prop :=
  ∀ (r : Registry) (i : Instr), r.wf = true → decode r (encode r i) = .ok i

/-- Every word that decodes is the word of what it decodes to, but for the case of its type field's digits, which are
"compared as a number" (42_registry.md R151). The words are the model's own: a byte for a command code, and that and a type
field for a form of a variant (logs 10, 11). -/
def Obligations.EncodeOfDecodeIsTheWord : Prop :=
  ∀ (r : Registry) (ws : List Byte) (i : Instr), decode r ws = .ok i → encode r i = upper ws

/-- A step takes the oldest input of the host: a command's word is decoded, its input record is what the operand registers
then hold, `M.CODE` being that of `M.TAG`, and the instruction runs; with no input the block does nothing, and a record
with more fields than there are field registers is refused (the model's own fetch, logs 1, 8, 13 and 20). -/
def Obligations.StepRunsTheDecodedInstruction : Prop :=
  (∀ s : State, s.queue = [] → step s = .next s) ∧
    (∀ (s : State) (word : List Byte) (o : Operands) (rest : List HostInput),
      s.queue = .command word o :: rest → s.f.length < o.fields.length → step s = .refused .noFieldRegister) ∧
    ∀ (s : State) (word : List Byte) (o : Operands) (rest : List HostInput) (i : Instr),
      s.queue = .command word o :: rest → o.fields.length ≤ s.f.length → decode s.reg word = .ok i →
      ∃ s1 : State, step s = exec i s1 ∧ s1.queue = rest ∧ s1.val = o.val ∧ s1.w = o.w ∧ s1.tag = o.tag ∧
        s1.code = o.tag.map s.reg.get ∧ s1.seq = o.seq ∧ s1.mac = o.mac ∧ s1.ilen = o.ib.length ∧
        s1.ib.readString 0 o.ib.length = some o.ib ∧ s1.f.length = s.f.length ∧
        (∀ j, s1.fieldReg j = (o.fields[j]?).join) ∧ s1.reg = s.reg ∧ s1.vt = s.vt ∧ s1.crc = s.crc

/-- What a word that is no instruction does, in every case: of a parse or decode form, a type field that is malformed or
unregistered is the error the document names for an inbound frame (60_exceptions.md R261, R264), the state after it being
that of `FRM.PARSE` and `MSG.DECODE`; every other word cannot be given to the block and is refused. The words are the
model's own (logs 10, 11). -/
def Obligations.BadWordsEndInTheirErrors : Prop :=
  ∀ (s : State) (word : List Byte) (o : Operands) (rest : List HostInput) (e : DecodeError),
    s.queue = .command word o :: rest → o.fields.length ≤ s.f.length → decode s.reg word = .error e →
    (∀ c, e = .unknownType .parse c →
      step s = .next (({ s with queue := rest }.load o).blankFailed (.unknownMessageType c))) ∧
    (∀ c, e = .unknownType .decode c →
      step s = .next { ({ s with queue := rest }.load o).blankFailed (.unknownMessageType c) with seq := o.seq }) ∧
    (e = .typeField .parse → step s = .next (({ s with queue := rest }.load o).blankFailed (.malformedHex .typeCode))) ∧
    (e = .typeField .decode →
      step s = .next { ({ s with queue := rest }.load o).blankFailed (.malformedHex .typeCode) with seq := o.seq }) ∧
    ((∃ n, e = .length n) ∨ (∃ b, e = .command b) ∨ (∃ b, e = .msgOp b) ∨ e = .typeField .encode ∨
        (∃ c, e = .unknownType .encode c) →
      step s = .refused .noSuchWord)

/-- Reset (10_state.md section 10; 70_reset_and_hazards.md section 1): what `State.reset` holds, and that a reset given by
the host leaves the same in every state, keeping the constant tables and the number of field registers. -/
def Obligations.ResetLeavesNoResult : Prop :=
  (State.reset.st = .unparsed ∧ State.reset.refusal = none ∧ State.reset.crc = 0x0000 ∧ State.reset.ilen = 0 ∧
    State.reset.olen = 0 ∧ State.reset.seqv = false ∧ State.reset.macv = false ∧ (∀ j, State.reset.fv j = false) ∧
    State.reset.reg = Config.registry ∧ State.reset.vt = Config.variantTable) ∧
    ∀ (s : State) (rest : List HostInput), s.queue = .reset :: rest →
      ∃ t, step s = .next t ∧ t.st = .unparsed ∧ t.err = none ∧ t.refusal = none ∧ t.crc = 0x0000 ∧ t.tag = none ∧
        t.code = none ∧ t.seq = none ∧ t.mac = none ∧ (∀ j, t.fv j = false) ∧ t.f.length = s.f.length ∧ t.val = none ∧ t.w = none ∧
        t.ib = [] ∧ t.ilen = 0 ∧ t.ob = [] ∧ t.olen = 0 ∧ t.reg = s.reg ∧ t.vt = s.vt ∧ t.queue = rest

/-! ### The HEX unit -/

/-- `HEX.ENCU` (40_hexcodec.md R100), in every case of its operands; the whole state after it; and the function `encU` it
defines, of any value, with the corner cases: 0, the largest value, and no lower-case letter, sign or other character.
That `VAL` keeps the operand after the command is the model's reading (log 3), and its record of why the command was refused
is its own (log 5). -/
def Obligations.EncodeUnsignedWritesTheDigits : Prop :=
  decodeCommand 0x0 = some .hexEncu ∧
  (∀ v w : Nat, encU v w = if v < 16 ^ w then some (digitString w v) else none) ∧
  (∀ w : Nat, encU 0 w = some (List.replicate w 0x30) ∧ encU (16 ^ w - 1) w = some (List.replicate w 0x46) ∧
    encU (16 ^ w) w = none) ∧
  (∀ (v w : Nat) (t : List Byte), encU v w = some t →
    t.length = w ∧ ∀ c ∈ t, (0x30 ≤ c.toNat ∧ c.toNat ≤ 0x39) ∨ (0x41 ≤ c.toNat ∧ c.toNat ≤ 0x46)) ∧
  ∀ (s : State) (v : Word) (w : BitVec 5), s.val = some v → s.w = some w →
    (1 ≤ w.toNat → w.toNat ≤ 16 → v.toNat < 16 ^ w.toNat →
      exec .hexEncu s = .next { s.blank with
        val := some v, ob := Memory.ofString (digitString w.toNat v.toNat), olen := w.toNat }) ∧
    (1 ≤ w.toNat → w.toNat ≤ 16 → 16 ^ w.toNat ≤ v.toNat →
      exec .hexEncu s = .next { s.blankFailed (.fieldOverflow .value) with val := some v }) ∧
    (w.toNat < 1 ∨ 16 < w.toNat → exec .hexEncu s = .next { s.blankRefused .widthOutside with val := some v })

/-- `HEX.DECU` (40_hexcodec.md R101), in every case of its operand; the whole state after it; and the function `decU` it
defines, of a string of any length: leading zeros and the case of the digits do not change the value. The record of why the
command was refused is the model's (log 5). -/
def Obligations.DecodeUnsignedReadsTheDigits : Prop :=
  decodeCommand 0x1 = some .hexDecu ∧
  (∀ x : List Byte, x ≠ [] → (∀ c ∈ x, isHex c = true) →
    decU x = some (digitValue x) ∧ digitValue x < 16 ^ x.length ∧ decU (0x30 :: x) = some (digitValue x) ∧
      decU (upper x) = some (digitValue x)) ∧
  (∀ x : List Byte, x = [] ∨ (∃ c ∈ x, isHex c = false) → decU x = none) ∧
  ∀ (s : State) (x : List Byte), s.HoldsInput x →
    (x ≠ [] → x.length ≤ 16 → (∀ c ∈ x, isHex c = true) →
      exec .hexDecu s = .next { s.blank with val := some (BitVec.ofNat 64 (digitValue x)) } ∧
        digitValue x < 2 ^ 64) ∧
    (x.length ≤ 16 → (x = [] ∨ ∃ c ∈ x, isHex c = false) →
      exec .hexDecu s = .next (s.blankFailed (.malformedHex .value))) ∧
    (16 < x.length → exec .hexDecu s = .next (s.blankRefused .operandLength))

/-- `HEX.ENCF32`, `HEX.ENCDS`, `HEX.ENCDM` and `HEX.ENCMAC` (40_hexcodec.md R102, R104, R106, R108). That `VAL` keeps the
operand after the command is the model's reading (log 3). -/
def Obligations.FixedWidthEncodersWriteTheDigits : Prop :=
  (decodeCommand 0x2 = some .hexEncf32 ∧ decodeCommand 0x4 = some .hexEncds ∧ decodeCommand 0x6 = some .hexEncdm ∧
    decodeCommand 0x8 = some .hexEncmac) ∧
  ∀ (s : State) (v : Word), s.val = some v →
    exec .hexEncf32 s = .next { s.blank with
      val := some v, ob := Memory.ofString (digitString 8 (v.toNat % 2 ^ 32)), olen := 8 } ∧
    (v.toNat ≤ 255 → exec .hexEncds s = .next { s.blank with
      val := some v, ob := Memory.ofString (digitString 2 v.toNat), olen := 2 }) ∧
    (255 < v.toNat → exec .hexEncds s = .next { s.blankFailed (.fieldOverflow .value) with val := some v }) ∧
    (v.toNat ≤ 65535 → exec .hexEncdm s = .next { s.blank with
      val := some v, ob := Memory.ofString (digitString 4 v.toNat), olen := 4 }) ∧
    (65535 < v.toNat → exec .hexEncdm s = .next { s.blankFailed (.fieldOverflow .value) with val := some v }) ∧
    exec .hexEncmac s = .next { s.blank with
      val := some v, ob := Memory.ofString (digitString 16 v.toNat), olen := 16 }

/-- `HEX.DECF32`, `HEX.DECDS`, `HEX.DECDM` and `HEX.DECMAC` (40_hexcodec.md R103, R105, R107, R109); the digits of the
result are the upper-cased input. The record of why the command was refused is the model's (log 5). -/
def Obligations.FixedWidthDecodersReadTheDigits : Prop :=
  (decodeCommand 0x3 = some .hexDecf32 ∧ decodeCommand 0x5 = some .hexDecds ∧ decodeCommand 0x7 = some .hexDecdm ∧
    decodeCommand 0x9 = some .hexDecmac) ∧
  ∀ (s : State) (x : List Byte) (i : Instr) (n : Nat), s.HoldsInput x →
    (i = .hexDecf32 ∧ n = 8 ∨ i = .hexDecds ∧ n = 2 ∨ i = .hexDecdm ∧ n = 4 ∨ i = .hexDecmac ∧ n = 16) →
    (x.length = n → (∀ c ∈ x, isHex c = true) →
      exec i s = .next { s.blank with val := some (BitVec.ofNat 64 (digitValue x)) } ∧ digitValue x < 16 ^ n ∧
        encU (digitValue x) n = some (upper x)) ∧
    (x.length = n → (∃ c ∈ x, isHex c = false) → exec i s = .next (s.blankFailed (.malformedHex .value))) ∧
    (x.length ≠ n → exec i s = .next (s.blankRefused .operandLength))

/-- The round trip of the primitive codec (40_hexcodec.md R110). -/
def Obligations.HexCodecRoundTrips : Prop :=
  (∀ v w, 1 ≤ w → w ≤ 16 → v < 16 ^ w → ∃ t, encU v w = some t ∧ decU t = some v) ∧
    (∀ s : List Byte, 1 ≤ s.length → s.length ≤ 16 → (∀ c ∈ s, isHex c = true) →
      ∃ v, decU s = some v ∧ encU v s.length = some (upper s)) ∧
    ∀ s : List Byte, upper s = s ↔ ∀ c ∈ s, ¬ (0x61 ≤ c.toNat ∧ c.toNat ≤ 0x66)

/-- A group read at any position and of any width, in a field that was written wider, sees the digits it covers; one that
is wider than a field sees that field's digits and those that follow it (20_memory.md R55, with its own example). -/
def Obligations.NarrowReadsSeeTheirDigits : Prop :=
  (∀ (v w p n : Nat) (s : List Byte), encU v w = some s → 1 ≤ n → p + n ≤ w →
    decU ((s.drop p).take n) = some (v / 16 ^ (w - p - n) % 16 ^ n)) ∧
    (∀ (v v' w w' : Nat) (s s' : List Byte), encU v w = some s → encU v' w' = some s' → 1 ≤ w + w' →
      decU (s ++ s') = some (v * 16 ^ w' + v')) ∧
    ∀ (v : BitVec 32) (s : List Byte), encU v.toNat 8 = some s →
      decU (s.take 4) = some (v.extractLsb' 16 16).toNat ∧ decU (s.drop 4) = some (v.extractLsb' 0 16).toNat

/-- A command whose operand register holds no value is refused: a model "must treat a read as holding no value (fault or
refuse the read), never as zero" (10_state.md R35, 93 U11; log 2). The record of the reason is the model's (log 5). -/
def Obligations.OperandWithoutValueIsRefused : Prop :=
  ∀ s : State,
    (s.val = none → ∀ i : Instr,
      (i = .hexEncu ∨ i = .hexEncf32 ∨ i = .hexEncds ∨ i = .hexEncdm ∨ i = .hexEncmac) →
      exec i s = .next (s.blankRefused (.noValue .val))) ∧
    (s.val.isSome = true → s.w = none →
      exec .hexEncu s = .next { s.blankRefused (.noValue .w) with val := s.val }) ∧
    (s.tag = none → exec .regTocode s = .next (s.blankRefused (.noValue .tag)) ∧
      exec .frmEncode s = .next (s.messageRefused (.noValue .tag)))

/-! ### The CRC unit -/

/-- The bit step (41_crc.md R132): each bit of the result, and the worked values. -/
def Obligations.CrcBitStepShiftsAndXors : Prop :=
  (∀ (c : BitVec 16) (d : Bool) (i : Nat), i < 16 →
    (crcBit c d).getLsbD i =
      ((decide (1 ≤ i) && c.getLsbD (i - 1)) ^^ ((c.getLsbD 15 ^^ d) && (i == 0 || i == 5 || i == 12)))) ∧
    crcBit 0x0000 false = 0x0000 ∧ crcBit 0x0000 true = 0x1021 ∧ crcBit 0x8000 false = 0x1021 ∧
    crcBit 0x8000 true = 0x0000 ∧ crcBit 0xFFFF false = 0xEFDF ∧ crcBit 0xFFFF true = 0xFFFE

/-- Masking once per byte in a wider register gives the same checksum (41_crc.md R133). -/
def Obligations.CrcMaskedPerByteIsTheSame : Prop := ∀ s : List Byte, crcWide s = (crc16 s).toNat

/-- `CRC.COMPUTE` is total (41_crc.md R130): the whole state after it, the empty string, and leading zero bytes. -/
def Obligations.CrcComputeIsTotal : Prop :=
  decodeCommand 0xA = some .crcCompute ∧
  (∀ (s : State) (x : List Byte), s.HoldsInput x →
    exec .crcCompute s = .next { s.blank with
      crc := crc16 x, ob := Memory.ofString (digitString 4 (crc16 x).toNat), olen := 4 }) ∧
    crc16 [] = 0x0000 ∧ (∀ (x : List Byte) (b : Byte), crc16 (x ++ [b]) = crcByte (crc16 x) b) ∧
    (∀ (n : Nat) (x : List Byte), crc16 (List.replicate n 0x00 ++ x) = crc16 x) ∧
    crc16 [0x30, 0x30, 0x30, 0x41] = 0xB43C

/-- The checksum is linear over XOR, so that a change of any single character of a string changes it; changes of more
than one character may not (41_crc.md R138). -/
def Obligations.CrcDetectsASingleChangedCharacter : Prop :=
  (∀ x y : List Byte, x.length = y.length → crc16 (List.zipWith (fun a b => a ^^^ b) x y) = crc16 x ^^^ crc16 y) ∧
    (∀ (pre post : List Byte) (a b : Byte), a ≠ b → crc16 (pre ++ a :: post) ≠ crc16 (pre ++ b :: post)) ∧
    ∃ x y : List Byte, x.length = y.length ∧ x ≠ y ∧ crc16 x = crc16 y

/-! ### The registry -/

/-- The registry of the block, whatever table is supplied (42_registry.md section 1; the check of a supplied table is log
6), and the variant table of the block, whatever grammars are supplied (log 7). -/
def Obligations.TablesOfTheBlockAreWellFormed : Prop :=
  (∀ t u, Config.registry.get t = Config.registry.get u → t = u) ∧ (∀ t, Config.registry.get t ≠ 0xFFFF) ∧
    VariantTable.wf Config.nfMax Config.variantTable = true

/-- `REG.FROMCODE` (42_registry.md R151), in every case of its operand; the whole state after it. The record of why the
command was refused is the model's (log 5). -/
def Obligations.FromCodeFindsTheVariant : Prop :=
  decodeCommand 0xB = some .regFromcode ∧
  ∀ (s : State) (x : List Byte), s.reg.wf = true → s.HoldsInput x →
    (x.length = 4 → (∃ c ∈ x, isHex c = false) →
      exec .regFromcode s = .next (s.blankFailed (.malformedHex .typeCode))) ∧
    (x.length = 4 → (∀ c ∈ x, isHex c = true) → (∀ t, (s.reg.get t).toNat ≠ digitValue x) →
      exec .regFromcode s = .next (s.blankFailed (.unknownMessageType (BitVec.ofNat 16 (digitValue x))))) ∧
    (∀ t, x.length = 4 → (∀ c ∈ x, isHex c = true) → (s.reg.get t).toNat = digitValue x →
      exec .regFromcode s = .next { s.blank with tag := some t, code := some (s.reg.get t) }) ∧
    (x = [0x46, 0x46, 0x46, 0x46] →
      exec .regFromcode s = .next (s.blankFailed (.unknownMessageType 0xFFFF))) ∧
    (x.length ≠ 4 → exec .regFromcode s = .next (s.blankRefused .operandLength))

/-- `REG.TOCODE` (42_registry.md R152): total over the tags, and the laws of lookup. That `M.TAG` keeps the operand after
the command is the model's reading (log 3). -/
def Obligations.ToCodeIsTotal : Prop :=
  decodeCommand 0xC = some .regTocode ∧
  (∀ (s : State) (t : Tag), s.tag = some t →
    exec .regTocode s = .next { s.blank with
      tag := some t, code := some (s.reg.get t),
      ob := Memory.ofString (digitString 4 (s.reg.get t).toNat), olen := 4 }) ∧
    ∀ r : Registry, r.wf = true →
      (∀ t, r.lookup (r.get t) = some t) ∧ ∀ c t, r.lookup c = some t → r.get t = c

/-! ### The grammars -/

/-- The patterns of the variants whose grammar the document gives, the only payload and frame lengths that match, and the
pattern an error reports (30_encoding.md R81). -/
def Obligations.PatternsOfTheKnownVariants : Prop :=
  ∀ (n : Nat) (vt : VariantTable), VariantTable.wf n vt = true →
    (∀ (t : Tag) (g : Grammar), (vt.get t).grammar = some g →
      g.pattern = (if g.hasMac then [16] else []) ++ g.fields.map Kind.width ∧ g.explen = g.pattern.sum ∧
      (∀ (c : BitVec 16) (p : List Byte) (m : Option Word) (fs : List Word),
        matchPayload g c p = .ok (m, fs) → p.length = g.explen) ∧
      (∀ (c : BitVec 16) (p : List Byte), p.length ≠ g.explen →
        matchPayload g c p = raise (.payloadMismatch c g.pattern p)) ∧
      ∀ (r : Registry) (n : Nat) (x : List Byte) (m : InboundFrame),
        splitFrame (dispatch r vt) n x = .ok m → m.tag = t → x.length = 12 + g.explen) ∧
    ∀ (t : Tag) (p : List Nat) (d : Dir),
      (t, p, d) ∈
        ([(.moduleJoinedNetworkReq, [16], .both), (.nodeAvailableReq, [16], .both),
          (.powerCalibrationResp, [16, 8, 8, 8, 8], .both), (.powerChangeReq, [16, 2], .both),
          (.powerInfoResp, [16, 4, 4, 8, 8, 4], .both), (.senseReportReq, [16, 4, 4], .both),
          (.broadcastGroupSwitchResp, [16, 2, 2], .both), (.roleCallReq, [2], .tx),
          (.powerBufferReq, [16, 8], .tx)] : List (Tag × List Nat × Dir)) →
      ∃ g, (vt.get t).grammar = some g ∧ g.pattern = p ∧ g.explen = p.sum ∧ g.dir = d

/-- The rows of the variant table (30_encoding.md R80; 44_payload_grammars.md R201 to R223): the closed set in its order;
the whole row, field kinds and all, of each variant whose grammar the document gives; of the others, that `SEQ_RX` is yes,
`SEQ_TX` is no for the network-status request alone, and the two duration requests are outbound only, address a MAC and
hold durations. That a table in a state has these rows is what `VariantTable.wf` asks of it. -/
def Obligations.RowsOfTheVariantTable : Prop :=
  Tag.all = [.clockGetReq, .clockGetResp, .deviceInfoReq, .deviceInfoResp, .lightCalibrationReq, .moduleJoinedNetworkReq,
    .networkResetReq, .networkStatusReq, .nodeAvailableReq, .nodeAvailableResp, .pingReq, .powerBufferReq,
    .powerCalibrationReq, .powerCalibrationResp, .powerChangeReq, .powerInfoReq, .powerInfoResp,
    .powerLogIntervalSetReq, .rtcGetReq, .roleCallReq, .senseReportReq, .sleepSetReq, .broadcastGroupSwitchResp] ∧
  (∀ t : Tag, t ∈ Tag.all) ∧
  ∀ (n : Nat) (vt : VariantTable), VariantTable.wf n vt = true →
    (∀ t : Tag, (vt.get t).seqRx = true ∧ ((vt.get t).seqTx = false ↔ t = .networkStatusReq)) ∧
    (∀ (t : Tag) (d : Dir) (m : Bool) (ks : List Kind),
      (t, d, m, ks) ∈
        ([(.moduleJoinedNetworkReq, .both, true, []), (.nodeAvailableReq, .both, true, []),
          (.powerBufferReq, .tx, true, [.pbaddr]), (.powerCalibrationResp, .both, true, [.f32, .f32, .f32, .f32]),
          (.powerChangeReq, .both, true, [.bool]),
          (.powerInfoResp, .both, true, [.u .w4, .u .w4, .u .w8, .u .w8, .u .w4]),
          (.roleCallReq, .tx, false, [.u .w2]), (.senseReportReq, .both, true, [.u .w4, .u .w4]),
          (.broadcastGroupSwitchResp, .both, true, [.u .w2, .bool])] : List (Tag × Dir × Bool × List Kind)) →
      vt.get t = { seqRx := true, seqTx := true, dir := some d, hasMac := some m, fields := some ks }) ∧
    ∀ t : Tag, t = .powerLogIntervalSetReq ∨ t = .sleepSetReq →
      (vt.get t).dir = some .tx ∧ (vt.get t).hasMac = some true ∧
        ∀ ks, (vt.get t).fields = some ks → ∀ k ∈ ks, k = .durS2 ∨ k = .durM4

/-- The table of field kinds (30_encoding.md R73): width, encode column and decode column of each. -/
def Obligations.FieldKindsEncodeAndDecode : Prop :=
  (UWidth.w2.digits = 2 ∧ UWidth.w4.digits = 4 ∧ UWidth.w8.digits = 8 ∧ UWidth.w16.digits = 16) ∧
    (∀ w : UWidth, (Kind.u w).width = w.digits) ∧ Kind.mac.width = 16 ∧ Kind.f32.width = 8 ∧ Kind.bool.width = 2 ∧
    Kind.durS2.width = 2 ∧ Kind.durM4.width = 4 ∧ Kind.pbaddr.width = 8 ∧
    (∀ (j : Nat) (k : Kind) (v : Word), k.fits v → encKind j k v = .ok (k.text v)) ∧
    (∀ (j : Nat) (k : Kind) (v : Word), k ≠ .bool → ¬ k.fits v → encKind j k v = raise (.fieldOverflow (.payload j))) ∧
    (∀ (k : Kind) (s : List Byte), k ≠ .pbaddr → s.length = k.width → (∀ c ∈ s, isHex c = true) →
      decKind k s = some (k.valueOf s) ∧ (k ≠ .bool → (k.valueOf s).toNat = digitValue s)) ∧
    ∀ s : List Byte, decKind .pbaddr s = none

/-- The kind `BOOL` (30_encoding.md R77): literal strings, and decode then encode is not the identity. -/
def Obligations.BoolFieldsAreLiteralStrings : Prop :=
  (∀ j, encKind j .bool 1 = .ok [0x30, 0x31] ∧ encKind j .bool 0 = .ok [0x30, 0x30]) ∧
    (∀ a b : Byte, decKind .bool [a, b] = some (if a = 0x30 ∧ b = 0x31 then 1 else 0)) ∧
    (∀ (j : Nat) (v : Word), v ≠ 0 → v ≠ 1 → encKind j .bool v = refuse (.boolValue j)) ∧
    ∀ j, ((decKind .bool [0x30, 0x32]).map (encKind j .bool)) = some (.ok [0x30, 0x30])

/-- The kind `PBADDR` (30_encoding.md R79): the address formula, its overflow bound, and no decode. -/
def Obligations.PowerBufferAddressIsTranslated : Prop :=
  (∀ (j : Nat) (v : Word), v.toNat ≤ 134209023 →
    encKind j .pbaddr v = .ok (digitString 8 (v.toNat * 32 + 278528))) ∧
    (∀ (j : Nat) (v : Word), 134209023 < v.toNat →
      encKind j .pbaddr v = raise (.fieldOverflow (.payload j))) ∧
    (∀ s : List Byte, decKind .pbaddr s = none) ∧
    encKind 0 .pbaddr 0 = .ok [0x30, 0x30, 0x30, 0x34, 0x34, 0x30, 0x30, 0x30]

/-! ### Encoding a frame -/

/-- `FRM.ENCODE` and the encode form of every variant write the frame (43_framing.md R170, 30_encoding.md R71): the whole
state after them. -/
def Obligations.EncodeWritesTheFrame : Prop :=
  ∀ (s : State) (t : Tag) (g : Grammar) (vs : List Word) (rest : List (Option Word)) (body : List Byte),
    (s.vt.get t).grammar = some g → s.f = vs.map some ++ rest → allFit g.fields vs →
    (g.hasMac = true → s.mac.isSome = true) →
    body = outboundBody (s.reg.get t) (s.vt.get t).seqTx s.seq (if g.hasMac then s.mac else none)
      (payloadText g.fields vs) →
    body.length + 4 ≤ Config.lMax →
    (s.tag = some t →
      exec .frmEncode s = .next { s.messageKept with
        crc := crc16 body, ob := Memory.ofString (outboundFrame body), olen := body.length + 4 }) ∧
    exec (t.instr .encode) s = .next { s.messageKept with
      crc := crc16 body, tag := some t, code := some (s.reg.get t), ob := Memory.ofString (outboundFrame body),
      olen := body.length + 4 }

/-- The first field, in grammar order, that does not fit determines the error (43_framing.md R177, 60_exceptions.md
R262), and the message registers stay as given. -/
def Obligations.FirstOverflowingFieldIsReported : Prop :=
  ∀ (s : State) (t : Tag) (g : Grammar) (ks ks' : List Kind) (k : Kind) (vs : List Word) (v : Word)
    (rest : List (Option Word)),
    s.tag = some t → (s.vt.get t).grammar = some g → (g.hasMac = true → s.mac.isSome = true) →
    g.fields = ks ++ k :: ks' → s.f = vs.map some ++ some v :: rest → allFit ks vs →
    k ≠ .bool → 16 ^ k.width ≤ k.wire v →
    exec .frmEncode s = .next { s.messageKept with
      st := .failed, err := some (.fieldOverflow (.payload ks.length)) }

/-- Where `FRM.ENCODE` is refused (43_framing.md R170, R177; 60_exceptions.md R275): no grammar, no MAC, a field without a
value, a `BOOL` that is neither 0 nor 1, a frame longer than `L_MAX`; the whole state after each, with `ST = UNPARSED` and
nothing written. The order among refusals is the model's (log 15), and its record of the reason too (log 5). -/
def Obligations.EncodeRefusesWhatHasNoMeaning : Prop :=
  ∀ (s : State) (t : Tag), s.tag = some t →
    ((s.vt.get t).grammar = none → exec .frmEncode s = .next (s.messageRefused (.grammarNotSupplied t))) ∧
    ∀ g : Grammar, (s.vt.get t).grammar = some g →
      (g.hasMac = true → s.mac = none → exec .frmEncode s = .next (s.messageRefused .missingMac)) ∧
      ((g.hasMac = true → s.mac.isSome = true) →
        (∀ (ks ks' : List Kind) (k : Kind) (vs : List Word) (rest : List (Option Word)),
          g.fields = ks ++ k :: ks' → allFit ks vs →
          (s.f = vs.map some ++ none :: rest → exec .frmEncode s = .next (s.messageRefused (.missingField ks.length))) ∧
          ∀ v : Word, s.f = vs.map some ++ some v :: rest → k = .bool → v ≠ 0 → v ≠ 1 →
            exec .frmEncode s = .next (s.messageRefused (.boolValue ks.length))) ∧
        ∀ (vs : List Word) (rest : List (Option Word)), s.f = vs.map some ++ rest → allFit g.fields vs →
          Config.lMax <
            (outboundBody (s.reg.get t) (s.vt.get t).seqTx s.seq (if g.hasMac then s.mac else none)
              (payloadText g.fields vs)).length + 4 →
          exec .frmEncode s = .next (s.messageRefused .tooLong))

/-- The length of an outbound frame (30_encoding.md R82), for every variant whose grammar is known: always even, and the
examples of the rule. -/
def Obligations.OutboundFrameLengthsAreEven : Prop :=
  (∀ (s t : State) (u : Tag) (g : Grammar), s.tag = some u → (s.vt.get u).grammar = some g →
    exec .frmEncode s = .next t → t.st = .parsed →
      t.olen = 8 + (if (s.vt.get u).seqTx = true ∧ s.seqv = true then 4 else 0) + g.explen ∧ t.olen % 2 = 0) ∧
    ∀ (n : Nat) (vt : VariantTable), VariantTable.wf n vt = true →
      ∀ (t : Tag) (a b : Nat),
        (t, a, b) ∈
          ([(.roleCallReq, 10, 14), (.powerChangeReq, 26, 30), (.powerBufferReq, 32, 36),
            (.powerCalibrationResp, 56, 60)] : List (Tag × Nat × Nat)) →
        ∃ g, (vt.get t).grammar = some g ∧ 8 + g.explen = a ∧ 8 + 4 + g.explen = b ∧ (vt.get t).seqTx = true

/-- The encode form of a variant is `FRM.ENCODE` of the message as one of that variant (42_registry.md R154; log 10). -/
def Obligations.VariantEncodeIsFrmEncode : Prop :=
  ∀ (t : Tag) (s : State),
    exec (t.instr .encode) s = exec .frmEncode { s with tag := some t, code := some (s.reg.get t) }

/-! ### Parsing a frame -/

/-- The errors of `FRM.PARSE` that come before the checksum, in the order of the `raise` lines (43_framing.md R171,
60_exceptions.md R267 ranks 1 to 6), each with the whole state after it, and the refusal after rank 2, whose record of the
reason is the model's (log 5). -/
def Obligations.ParseReportsTheFirstError : Prop :=
  ∀ (s : State) (x : List Byte), VariantTable.wf s.f.length s.vt = true → s.HoldsInput x →
    (x.length < 4 ∨ decU (x.take 4) = none →
      exec .frmParse s = .next (s.blankFailed (.malformedHex .typeCode))) ∧
    ∀ c : Nat, 4 ≤ x.length → decU (x.take 4) = some c →
      (s.reg.lookup (BitVec.ofNat 16 c) = none →
        exec .frmParse s = .next (s.blankFailed (.unknownMessageType (BitVec.ofNat 16 c)))) ∧
      ∀ t : Tag, s.reg.lookup (BitVec.ofNat 16 c) = some t →
        ((s.vt.get t).dir = some .tx →
          exec .frmParse s = .next (s.blankFailed (.unknownMessageType (BitVec.ofNat 16 c)))) ∧
        ((s.vt.get t).dir ≠ some .tx → (s.vt.get t).grammar = none →
          exec .frmParse s = .next (s.blankRefused (.grammarNotSupplied t))) ∧
        ∀ g : Grammar, (s.vt.get t).grammar = some g → g.dir = .both →
          (x.length < 8 ∨ decU ((x.drop 4).take 4) = none →
            exec .frmParse s = .next (s.blankFailed (.malformedHex .seq))) ∧
          ∀ q : Nat, 8 ≤ x.length → decU ((x.drop 4).take 4) = some q →
            (x.length < 12 → exec .frmParse s = .next (s.blankFailed (.malformedHex .crc))) ∧
            ∀ p : List Byte, 12 ≤ x.length → p = (x.drop 8).take (x.length - 12) →
              (p.length ≠ g.explen ∨ allHex p = false →
                exec .frmParse s =
                  .next (s.blankFailed (.payloadMismatch (BitVec.ofNat 16 c) g.pattern p))) ∧
              (p.length = g.explen → allHex p = true → decU (x.drop (x.length - 4)) = none →
                exec .frmParse s = .next (s.blankFailed (.malformedHex .crc)))

/-- `FRM.PARSE` of a frame that passes those checks (43_framing.md R171, 41_crc.md R136, 60_exceptions.md R265): the
message when the checksum is that of the characters as received, `ChecksumMismatch` when it is not; the whole state after
it. The CRC register after a mismatch is the model's reading (log 4). -/
def Obligations.ParseVerifiesTheChecksum : Prop :=
  ∀ (s : State) (x p : List Byte) (c q r : Nat) (t : Tag) (g : Grammar),
    VariantTable.wf s.f.length s.vt = true → s.HoldsInput x → 12 ≤ x.length → decU (x.take 4) = some c →
    s.reg.lookup (BitVec.ofNat 16 c) = some t → (s.vt.get t).grammar = some g → g.dir = .both →
    decU ((x.drop 4).take 4) = some q → p = (x.drop 8).take (x.length - 12) → p.length = g.explen →
    allHex p = true → decU (x.drop (x.length - 4)) = some r →
    (r ≠ (crc16 (x.take (x.length - 4))).toNat →
      exec .frmParse s = .next { s.blankFailed .checksumMismatch with crc := crc16 (x.take (x.length - 4)) }) ∧
    (r = (crc16 (x.take (x.length - 4))).toNat →
      ∃ vs, g.Extracts p vs ∧ exec .frmParse s = .next { s.blank with
        crc := crc16 (x.take (x.length - 4)), tag := some t, code := some (BitVec.ofNat 16 c),
        seq := some (BitVec.ofNat 16 q), mac := g.macOf p,
        f := vs.map some ++ List.replicate (s.f.length - vs.length) none })

/-- The parse form of a variant is `FRM.PARSE` of a frame that carries its type code, and of one too short or malformed to
carry any; a frame of another code is refused (logs 5 and 10). -/
def Obligations.VariantParseIsFrmParse : Prop :=
  ∀ (s : State) (t : Tag) (x : List Byte), s.reg.wf = true → s.HoldsInput x →
    ((x.length < 4 ∨ decU (x.take 4) = none ∨ decU (x.take 4) = some (s.reg.get t).toNat) →
      exec (t.instr .parse) s = exec .frmParse s) ∧
    ∀ c : Nat, 4 ≤ x.length → decU (x.take 4) = some c → BitVec.ofNat 16 c ≠ s.reg.get t →
      exec (t.instr .parse) s = .next (s.blankRefused .otherVariant)

/-! ### Decoding a payload -/

/-- `MSG.DECODE` (43_framing.md R172), in every case of its operands; the whole state after it. The record of why the
command was refused is the model's (log 5). -/
def Obligations.MsgDecodeExtractsTheFields : Prop :=
  decodeCommand 0xF = some .msgDecode ∧
  ∀ (s : State) (x : List Byte), VariantTable.wf s.f.length s.vt = true → s.HoldsInput x →
    (x.length < 4 → exec .msgDecode s = .next { s.blankRefused .operandLength with seq := s.seq }) ∧
    (4 ≤ x.length → decU (x.take 4) = none →
      exec .msgDecode s = .next { s.blankFailed (.malformedHex .typeCode) with seq := s.seq }) ∧
    ∀ c : Nat, 4 ≤ x.length → decU (x.take 4) = some c →
      (s.reg.lookup (BitVec.ofNat 16 c) = none →
        exec .msgDecode s = .next { s.blankFailed (.unknownMessageType (BitVec.ofNat 16 c)) with seq := s.seq }) ∧
      ∀ t : Tag, s.reg.lookup (BitVec.ofNat 16 c) = some t →
        ((s.vt.get t).dir = some .tx →
          exec .msgDecode s =
            .next { s.blankFailed (.unknownMessageType (BitVec.ofNat 16 c)) with seq := s.seq }) ∧
        ((s.vt.get t).dir ≠ some .tx → (s.vt.get t).grammar = none →
          exec .msgDecode s = .next { s.blankRefused (.grammarNotSupplied t) with seq := s.seq }) ∧
        ∀ g : Grammar, (s.vt.get t).grammar = some g → g.dir = .both →
          ((x.drop 4).length ≠ g.explen ∨ allHex (x.drop 4) = false →
            exec .msgDecode s = .next
              { s.blankFailed (.payloadMismatch (BitVec.ofNat 16 c) g.pattern (x.drop 4)) with seq := s.seq }) ∧
          ((x.drop 4).length = g.explen → allHex (x.drop 4) = true →
            ∃ vs, g.Extracts (x.drop 4) vs ∧ exec .msgDecode s = .next { s.blank with
              tag := some t, code := some (BitVec.ofNat 16 c), seq := s.seq, mac := g.macOf (x.drop 4),
              f := vs.map some ++ List.replicate (s.f.length - vs.length) none })

/-- The decode form of every variant (43_framing.md R176, 44_payload_grammars.md R200; logs 5 and 10): its payload's fields, or
`PayloadMismatch` and nothing extracted; an outbound-only variant gives `UnknownMessageType`. -/
def Obligations.VariantDecodeExtractsTheFields : Prop :=
  ∀ (s : State) (t : Tag) (p : List Byte), VariantTable.wf s.f.length s.vt = true → s.HoldsInput p →
    ((s.vt.get t).dir = some .tx →
      exec (t.instr .decode) s =
        .next { s.blankFailed (.unknownMessageType (s.reg.get t)) with seq := s.seq }) ∧
    ((s.vt.get t).dir ≠ some .tx → (s.vt.get t).grammar = none →
      exec (t.instr .decode) s = .next { s.blankRefused (.grammarNotSupplied t) with seq := s.seq }) ∧
    ∀ g : Grammar, (s.vt.get t).grammar = some g → g.dir = .both →
      (p.length ≠ g.explen ∨ allHex p = false →
        exec (t.instr .decode) s =
          .next { s.blankFailed (.payloadMismatch (s.reg.get t) g.pattern p) with seq := s.seq }) ∧
      (p.length = g.explen → allHex p = true →
        ∃ vs, g.Extracts p vs ∧ exec (t.instr .decode) s = .next { s.blank with
          tag := some t, code := some (s.reg.get t), seq := s.seq, mac := g.macOf p,
          f := vs.map some ++ List.replicate (s.f.length - vs.length) none })

/-- `FRM.PARSE` succeeds with a message exactly when `MSG.DECODE` of the pieces does and the sequence and checksum fields are
well-formed and the checksum matches (43_framing.md section 3). -/
def Obligations.ParseIsDecodeOfThePiecesAndChecksum : Prop :=
  ∀ (s s' : State) (x : List Byte) (tag : Option Tag) (code seq : Option (BitVec 16)) (mac : Option Word)
    (f : List (Option Word)),
    s.HoldsInput x → 12 ≤ x.length → s'.HoldsInput (x.take 4 ++ (x.drop 8).take (x.length - 12)) →
    s'.reg = s.reg → s'.vt = s.vt → s'.f.length = s.f.length →
    s'.seq = (decU ((x.drop 4).take 4)).map (BitVec.ofNat 16) →
    ((∃ t, exec .frmParse s = .next t ∧ t.st = .parsed ∧ t.tag = tag ∧ t.code = code ∧ t.seq = seq ∧ t.mac = mac ∧
        t.f = f) ↔
      (∃ t, exec .msgDecode s' = .next t ∧ t.st = .parsed ∧ t.tag = tag ∧ t.code = code ∧ t.seq = seq ∧ t.mac = mac ∧
        t.f = f) ∧
      (decU ((x.drop 4).take 4)).isSome = true ∧
      decU (x.drop (x.length - 4)) = some (crc16 (x.take (x.length - 4))).toNat)

/-! ### Round trips -/

/-- A frame encoded from a message of a variant of direction `BOTH`, with a sequence number, is parsed back to the message
(43_framing.md section 4). The variant renders its sequence number: the network-status request does not, and its frame
cannot be parsed back (70 section 3; NOTES.md). -/
def Obligations.ParseOfEncodedFrameIsTheMessage : Prop :=
  ∀ (s s' : State) (t : Tag) (g : Grammar) (q : BitVec 16) (vs : List Word) (x : List Byte) (e : State),
    s.reg.wf = true → VariantTable.wf s.f.length s.vt = true → s.tag = some t → (s.vt.get t).grammar = some g →
    g.dir = .both → (s.vt.get t).seqTx = true → s.seq = some q → s.mac.isSome = g.hasMac → allFit g.fields vs →
    s.f = vs.map some ++ List.replicate (s.f.length - vs.length) none →
    exec .frmEncode s = .next e → e.st = .parsed → e.output = some x →
    s'.HoldsInput x → s'.reg = s.reg → s'.vt = s.vt → s'.f.length = s.f.length →
    ∃ p, exec .frmParse s' = .next p ∧ p.st = .parsed ∧ p.tag = some t ∧ p.code = some (s.reg.get t) ∧ p.seq = s.seq ∧
      p.mac = s.mac ∧ p.f = s.f

/-- At the payload level the round trip needs no sequence number (43_framing.md section 4). -/
def Obligations.DecodeOfRenderedPayloadIsTheMessage : Prop :=
  ∀ (s : State) (t : Tag) (g : Grammar) (mac : Option Word) (vs : List Word),
    s.reg.wf = true → VariantTable.wf s.f.length s.vt = true → (s.vt.get t).grammar = some g → g.dir = .both →
    mac.isSome = g.hasMac → allFit g.fields vs →
    s.HoldsInput (digitString 4 (s.reg.get t).toNat ++
      (mac.map (fun m => digitString 16 m.toNat)).getD [] ++ payloadText g.fields vs) →
    exec .msgDecode s = .next { s.blank with
      tag := some t, code := some (s.reg.get t), seq := s.seq, mac := mac,
      f := vs.map some ++ List.replicate (s.f.length - vs.length) none }

/-- A frame that parses, has no lower-case digit, and whose `BOOL` groups are "00" or "01", is what encoding its message
gives (43_framing.md section 4). -/
def Obligations.EncodeOfParsedFrameIsTheFrame : Prop :=
  ∀ (s p : State) (t : Tag) (g : Grammar) (x : List Byte),
    s.reg.wf = true → VariantTable.wf s.f.length s.vt = true → s.HoldsInput x → exec .frmParse s = .next p →
    p.st = .parsed → p.tag = some t → (s.vt.get t).grammar = some g → (s.vt.get t).seqTx = true → upper x = x →
    (∀ j, g.fields[j]? = some Kind.bool →
      g.group j .bool (x.drop 8) = [0x30, 0x30] ∨ g.group j .bool (x.drop 8) = [0x30, 0x31]) →
    ∃ e, exec .frmEncode p = .next e ∧ e.st = .parsed ∧ e.output = some x

/-! ### Accessors -/

/-- The typed accessors read the field registers under the document's names (43_framing.md R179, 44_payload_grammars.md),
while `ST = PARSED`, and nothing otherwise (70_reset_and_hazards.md R293). -/
def Obligations.AccessorsReadTheFields : Prop :=
  (∀ (s : State) (n : FieldName), s.st ≠ .parsed → s.accessor n = none) ∧
    ∀ s : State, s.st = .parsed →
      (s.tag = some .senseReportReq →
        s.accessor .humidityRaw = s.fieldReg 0 ∧ s.accessor .temperatureRaw = s.fieldReg 1) ∧
      (s.tag = some .broadcastGroupSwitchResp →
        s.accessor .portMask = s.fieldReg 0 ∧ s.accessor .powerState = s.fieldReg 1) ∧
      (s.tag = some .powerChangeReq → s.accessor .powerState = s.fieldReg 0) ∧
      (s.tag = some .roleCallReq → s.accessor .nodeId = s.fieldReg 0) ∧
      (s.tag = some .powerBufferReq → s.accessor .logAddress = s.fieldReg 0) ∧
      (s.tag = some .powerCalibrationResp →
        s.accessor .gainA = s.fieldReg 0 ∧ s.accessor .gainB = s.fieldReg 1 ∧
          s.accessor .offsetTotal = s.fieldReg 2 ∧ s.accessor .offsetNoise = s.fieldReg 3)

/-- The seconds correction and the Energies (44_payload_grammars.md R231). -/
def Obligations.EnergiesFollowFromTheFields : Prop :=
  ∀ (s : State) (a b c d raw : Word), s.st = .parsed → s.tag = some .powerInfoResp →
    s.fieldReg 0 = some a → s.fieldReg 1 = some b → s.fieldReg 2 = some c → s.fieldReg 3 = some d →
    s.fieldReg 4 = some raw →
    s.corr = some ((raw.toNat : Rat) / 46875) ∧
    s.energyOneSecond = some { pulses := a.toNat, basis := .seconds (1 + (raw.toNat : Rat) / 46875) } ∧
    s.energyEightSec = some { pulses := b.toNat, basis := .seconds (8 + (raw.toNat : Rat) / 46875) } ∧
    s.energyHourCons = some { pulses := c.toNat, basis := .oneHour } ∧
    s.energyHourProd = some { pulses := d.toNat, basis := .oneHour } ∧
    (raw = 0 → s.correctionFactor = some 0 ∧
      s.energyOneSecond = some { pulses := a.toNat, basis := .seconds 1 }) ∧
    (raw.toNat ≤ 65535 → ∃ q, s.corr = some q ∧ 0 ≤ q ∧ q ≤ 65535 / 46875) ∧
    (raw = 46875 → s.corr = some 1) ∧ (raw = 65535 → s.corr = some (4369 / 3125))

/-! ### The whole machine -/

/-- The invariant holds at reset. -/
def Obligations.InvariantHoldsAtReset : Prop := State.reset.Inv

/-- Every step keeps the invariant: the buffers' canonical form and capacity, the tables, the error record, no result
without `PARSED`, the code of the tag. -/
def Obligations.EveryStepKeepsTheInvariant : Prop := ∀ s t : State, s.Inv → step s = .next t → t.Inv

/-- No step writes the constant tables or changes the number of field registers (20_memory.md R66). -/
def Obligations.NoStepWritesTheTables : Prop :=
  ∀ s t : State, step s = .next t → t.reg = s.reg ∧ t.vt = s.vt ∧ t.f.length = s.f.length

/-- The result of a command is a function of its inputs and of the constant tables, whatever ran before (10_state.md R21):
two blocks with the same tables and the same next input cannot be told apart after a step. -/
def Obligations.StepDependsOnItsInputAlone : Prop :=
  ∀ (s s' : State) (x : HostInput) (rest rest' : List HostInput),
    s.queue = x :: rest → s'.queue = x :: rest' → s'.reg = s.reg → s'.vt = s.vt → s'.f.length = s.f.length →
    observed (step s') = observed (step s)

/-- Every command terminates, on every state (43_framing.md R174): in a result (`PARSED`), in an error (`FAILED`, with
`ERR` holding it), or in a refusal (`UNPARSED`; the record of its reason is the model's, log 5). -/
def Obligations.EveryCommandEndsInAResultAnErrorOrARefusal : Prop :=
  ∀ (i : Instr) (s : State), ∃ t, exec i s = .next t ∧
    ((t.st = .parsed ∧ t.err = none ∧ t.refusal = none) ∨ (t.st = .failed ∧ t.err.isSome = true ∧ t.refusal = none) ∨
      (t.st = .unparsed ∧ t.err = none ∧ t.refusal.isSome = true))

/-- The codes of `ST` (10_state.md R24) and of `ERR.KIND` (60_exceptions.md R260; 0 is never written), and what each
error's record holds in the other fields of `ERR`, nothing where the field is not valid for it (10_state.md R25). -/
def Obligations.StatusAndErrorRegistersHoldTheirCodes : Prop :=
  (Status.unparsed.code = 0 ∧ Status.parsed.code = 1 ∧ Status.failed.code = 2) ∧
    (∀ f : ErrField, (CodecError.malformedHex f).kind = 1 ∧ (CodecError.malformedHex f).field = some f ∧
      (CodecError.malformedHex f).code = none ∧ (CodecError.malformedHex f).pattern = none ∧
      (CodecError.malformedHex f).payload = none) ∧
    (∀ f : ErrField, (CodecError.fieldOverflow f).kind = 2 ∧ (CodecError.fieldOverflow f).field = some f ∧
      (CodecError.fieldOverflow f).code = none ∧ (CodecError.fieldOverflow f).pattern = none ∧
      (CodecError.fieldOverflow f).payload = none) ∧
    (∀ (c : BitVec 16) (p : List Nat) (x : List Byte), (CodecError.payloadMismatch c p x).kind = 3 ∧
      (CodecError.payloadMismatch c p x).field = none ∧ (CodecError.payloadMismatch c p x).code = some c ∧
      (CodecError.payloadMismatch c p x).pattern = some p ∧ (CodecError.payloadMismatch c p x).payload = some x) ∧
    (∀ c : BitVec 16, (CodecError.unknownMessageType c).kind = 4 ∧ (CodecError.unknownMessageType c).field = none ∧
      (CodecError.unknownMessageType c).code = some c ∧ (CodecError.unknownMessageType c).pattern = none ∧
      (CodecError.unknownMessageType c).payload = none) ∧
    (CodecError.checksumMismatch.kind = 5 ∧ CodecError.checksumMismatch.field = none ∧
      CodecError.checksumMismatch.code = none ∧ CodecError.checksumMismatch.pattern = none ∧
      CodecError.checksumMismatch.payload = none) ∧
    ∀ e : CodecError, e.kind ≠ 0

/-- Which command raises which error: the last column of the table of errors, for the 16 commands; the other commands raise
nothing; and what the record of each error holds (60_exceptions.md R260). -/
def Obligations.ErrorsAreRaisedByTheirCommands : Prop :=
  (∀ f c p x, (CodecError.malformedHex f).kind = 1 ∧ (CodecError.fieldOverflow f).kind = 2 ∧
    (CodecError.payloadMismatch c p x).kind = 3 ∧ (CodecError.unknownMessageType c).kind = 4 ∧
    CodecError.checksumMismatch.kind = 5 ∧ (CodecError.malformedHex f).field = some f ∧
    (CodecError.fieldOverflow f).field = some f ∧ (CodecError.payloadMismatch c p x).code = some c ∧
    (CodecError.payloadMismatch c p x).pattern = some p ∧ (CodecError.payloadMismatch c p x).payload = some x ∧
    (CodecError.unknownMessageType c).code = some c) ∧
  ∀ (i : Instr) (s t : State) (e : CodecError), i.variant = none → exec i s = .next t → t.err = some e →
    e.kind ≠ 0 ∧ e.kind ≠ 6 ∧ e.kind ≠ 7 ∧
    (e.kind = 1 → i ∈ [Instr.hexDecu, .hexDecf32, .hexDecds, .hexDecdm, .hexDecmac, .regFromcode, .frmParse, .msgDecode]) ∧
    (e.kind = 2 → i ∈ [Instr.hexEncu, .hexEncds, .hexEncdm, .frmEncode]) ∧
    (e.kind = 3 → i ∈ [Instr.frmParse, .msgDecode]) ∧
    (e.kind = 4 → i ∈ [Instr.regFromcode, .frmParse, .msgDecode]) ∧
    (e.kind = 5 → i = .frmParse) ∧
    i ∉ [Instr.hexEncf32, .hexEncmac, .crcCompute, .regTocode]

/-- What `ERR.FIELD` names (60_exceptions.md R261, R262; 10_state.md R25): `VALUE` after a HEX command; the type, sequence
or checksum field after a command that reads a frame; a payload field, below `NF_MAX`, after an encode. And which errors the
forms of a variant raise, which are the model's (log 10). -/
def Obligations.ErrorFieldsNameWhatWasRead : Prop :=
  ∀ (i : Instr) (s t : State) (e : CodecError), exec i s = .next t → t.err = some e →
    (∀ f, e = .malformedHex f →
      (i ∈ [Instr.hexDecu, .hexDecf32, .hexDecds, .hexDecdm, .hexDecmac] → f = .value) ∧
      (i ∈ [Instr.regFromcode, .msgDecode] → f = .typeCode) ∧
      ((i = .frmParse ∨ ∃ u : Tag, i = u.instr .parse) → f = .typeCode ∨ f = .seq ∨ f = .crc)) ∧
    (∀ f, e = .fieldOverflow f →
      (i ∈ [Instr.hexEncu, .hexEncds, .hexEncdm] → f = .value) ∧
      ((i = .frmEncode ∨ ∃ u : Tag, i = u.instr .encode) → ∃ j, f = .payload j ∧ j < s.f.length)) ∧
    ∀ u : Tag,
      (i = u.instr .encode → e.kind = 2) ∧ (i = u.instr .parse → e.kind ≠ 2) ∧
        (i = u.instr .decode → e.kind = 3 ∨ e.kind = 4)

/-- A refusal "leaves `ST = UNPARSED` and writes nothing" (60_exceptions.md R275): no result register, no output, no CRC;
operands of the command keep what was given (43_framing.md R173; log 3), and an encode form names its variant (log 10). It is
an outcome distinct from a result and from an error; the record of the reason is the model's (log 5). -/
def Obligations.RefusalWritesNothing : Prop :=
  ∀ (i : Instr) (s t : State), exec i s = .next t → t.st = .unparsed →
    t.refusal.isSome = true ∧ t.err = none ∧ t.ob = [] ∧ t.olen = 0 ∧ t.crc = s.crc ∧ t.ib = s.ib ∧ t.ilen = s.ilen ∧
      t.w = s.w ∧ t.reg = s.reg ∧ t.vt = s.vt ∧ t.queue = s.queue ∧ (t.val = none ∨ t.val = s.val) ∧
      (t.seq = none ∨ t.seq = s.seq) ∧ (t.mac = none ∨ t.mac = s.mac) ∧ (t.f = s.f ∨ ∀ j, t.fv j = false) ∧
      ((t.tag = none ∨ t.tag = s.tag) ∧ (t.code = none ∨ t.code = s.code) ∨
        ∃ u : Tag, i = u.instr .encode ∧ t.tag = some u ∧ t.code = some (s.reg.get u))

/-- A command that fails leaves no result and no other effect (60_exceptions.md R266): every result register holds no
value, but for operands of the command, which keep what was given (43_framing.md R173; log 3), and the variant in an encode
form (log 10). The CRC register after `ChecksumMismatch` is log 4. -/
def Obligations.FailureLeavesNoResult : Prop :=
  ∀ (i : Instr) (s t : State), exec i s = .next t → t.st = .failed →
    t.refusal = none ∧ (t.err ≠ some .checksumMismatch → t.crc = s.crc) ∧ t.ob = [] ∧ t.olen = 0 ∧
      t.ib = s.ib ∧ t.ilen = s.ilen ∧ t.w = s.w ∧ t.reg = s.reg ∧ t.vt = s.vt ∧ t.queue = s.queue ∧
      (t.val = none ∨ t.val = s.val) ∧ (t.seq = none ∨ t.seq = s.seq) ∧
      (t.mac = none ∨ t.mac = s.mac) ∧ (t.f = s.f ∨ ∀ j, t.fv j = false) ∧
      ((t.tag = none ∨ t.tag = s.tag) ∧ (t.code = none ∨ t.code = s.code) ∨
        ∃ u : Tag, i = u.instr .encode ∧ t.tag = some u ∧ t.code = some (s.reg.get u)) ∧
      (i = .frmParse ∨ i = .regFromcode → t.tag = none ∧ t.code = none ∧ t.seqv = false ∧ t.macv = false ∧
        ∀ j, t.fv j = false) ∧
      (i = .msgDecode → t.tag = none ∧ t.code = none ∧ t.macv = false ∧ ∀ j, t.fv j = false) ∧
      (i = .hexDecu ∨ i = .hexDecf32 ∨ i = .hexDecds ∨ i = .hexDecdm ∨ i = .hexDecmac → t.val = none)

/-- The frame of every instruction: the input buffer with every character in it, `W`, the tables and the inputs to come are
unchanged; the CRC register is unchanged by every instruction that computes no checksum (10_state.md R23). -/
def Obligations.EveryCommandKeepsItsFrame : Prop :=
  ∀ (i : Instr) (s t : State), exec i s = .next t →
    t.ib = s.ib ∧ (∀ a, t.ib.read a = s.ib.read a) ∧ t.ilen = s.ilen ∧ t.w = s.w ∧ t.reg = s.reg ∧ t.vt = s.vt ∧
      t.queue = s.queue ∧
      ((i ≠ .crcCompute ∧ i ≠ .frmEncode ∧ i ≠ .frmParse ∧ ∀ u : Tag, i ≠ u.instr .encode ∧ i ≠ u.instr .parse) →
        t.crc = s.crc)

/-- After a command that ends `PARSED`, what is no result of it and no operand of it holds no value (10_state.md R28), for
every command and every form of a variant (log 10). That operands keep what was given, `VAL`, `M.TAG` and the message
registers among them, is the model's reading (logs 3 and 20). -/
def Obligations.OnlyResultsHoldValues : Prop :=
  ∀ (i : Instr) (s t : State), exec i s = .next t → t.st = .parsed →
    ((i = .hexDecu ∨ i = .hexDecf32 ∨ i = .hexDecds ∨ i = .hexDecdm ∨ i = .hexDecmac) →
      t.val.isSome = true ∧ t.ob = [] ∧ t.olen = 0 ∧ t.NoMessage) ∧
    ((i = .hexEncu ∨ i = .hexEncf32 ∨ i = .hexEncds ∨ i = .hexEncdm ∨ i = .hexEncmac) →
      t.val = s.val ∧ 1 ≤ t.olen ∧ t.NoMessage) ∧
    (i = .crcCompute → t.val = none ∧ t.olen = 4 ∧ t.NoMessage) ∧
    (i = .regFromcode → t.tag.isSome = true ∧ t.code = t.tag.map s.reg.get ∧ t.val = none ∧ t.ob = [] ∧ t.olen = 0 ∧
      t.seqv = false ∧ t.macv = false ∧ ∀ j, t.fv j = false) ∧
    (i = .regTocode → t.tag = s.tag ∧ t.code = s.tag.map s.reg.get ∧ t.val = none ∧ t.olen = 4 ∧
      t.seqv = false ∧ t.macv = false ∧ ∀ j, t.fv j = false) ∧
    (i = .frmEncode → t.tag = s.tag ∧ t.code = s.code ∧ t.seq = s.seq ∧ t.mac = s.mac ∧ t.f = s.f ∧ t.val = none ∧
      8 ≤ t.olen) ∧
    (∀ u : Tag, i = u.instr .encode → t.tag = some u ∧ t.code = some (s.reg.get u) ∧ t.seq = s.seq ∧ t.mac = s.mac ∧
      t.f = s.f ∧ t.val = none ∧ 8 ≤ t.olen) ∧
    ((i = .frmParse ∨ ∃ u : Tag, i = u.instr .parse) → t.seqv = true) ∧
    ((i = .msgDecode ∨ ∃ u : Tag, i = u.instr .decode) → t.seq = s.seq) ∧
    ((i = .frmParse ∨ i = .msgDecode ∨ ∃ u : Tag, i = u.instr .parse ∨ i = u.instr .decode) →
      t.val = none ∧ t.ob = [] ∧ t.olen = 0 ∧
        ∃ (u : Tag) (g : Grammar), t.tag = some u ∧ t.code = some (s.reg.get u) ∧ (s.vt.get u).grammar = some g ∧
          t.macv = g.hasMac ∧ ∀ j, t.fv j = decide (j < g.fields.length))

/-- Every instruction, on every input record that is well-formed for it, ends in a result or in an error of the document,
never in a refusal (60_exceptions.md section 8). -/
def Obligations.WellFormedCommandsComplete : Prop :=
  ∀ (i : Instr) (s : State) (o : Operands), VariantTable.wf s.f.length s.vt = true →
    i.wf s.reg s.vt s.f.length o = true →
    ∃ t, exec i (s.load o) = .next t ∧ (t.st = .parsed ∨ t.st = .failed)

/-- A string longer than the buffer is refused by every command that reads one (20_memory.md R50, 60_exceptions.md R275),
by those that take a fixed length or at most `W_MAX` characters for that length. The record of the reason is the model's
(log 5). -/
def Obligations.StringsLongerThanTheBufferAreRefused : Prop :=
  ∀ s : State, Config.lMax < s.ilen →
    exec .crcCompute s = .next (s.blankRefused .tooLong) ∧ exec .frmParse s = .next (s.blankRefused .tooLong) ∧
      exec .msgDecode s = .next { s.blankRefused .tooLong with seq := s.seq } ∧
      (∀ t : Tag, exec (t.instr .parse) s = .next (s.blankRefused .tooLong) ∧
        exec (t.instr .decode) s = .next { s.blankRefused .tooLong with seq := s.seq }) ∧
      ∀ i : Instr, i ∈ [Instr.hexDecu, .hexDecf32, .hexDecds, .hexDecdm, .hexDecmac, .regFromcode] →
        exec i s = .next (s.blankRefused .operandLength)

/-- A step stops only for an input that cannot be given to the block: a record with more fields than there are field
registers (log 8), or a word that is no instruction and carries no inbound type field (logs 10, 11). No step faults; every
other step is a next state (43_framing.md R174). -/
def Obligations.StepsStopOnlyForInputsThatCannotBeGiven : Prop :=
  ∀ s : State, (∀ r, step s ≠ .fault r) ∧
    (∀ r, step s = .refused r ↔ ∃ (word : List Byte) (o : Operands) (rest : List HostInput),
      s.queue = .command word o :: rest ∧
        ((r = .noFieldRegister ∧ s.f.length < o.fields.length) ∨
          (r = .noSuchWord ∧ o.fields.length ≤ s.f.length ∧ ∃ e, decode s.reg word = .error e ∧
            ((∃ n, e = .length n) ∨ (∃ b, e = .command b) ∨ (∃ b, e = .msgOp b) ∨ e = .typeField .encode ∨
              ∃ c, e = .unknownType .encode c)))) ∧
    (s.Safe ↔ ∀ r, step s ≠ .refused r)
end

