-- ==== Sys2Proof/Laws/Hex.lean ====
section
/-! SUPPORT. The laws of the hex codec's functions. -/

namespace Sys2Proof

@[simp] theorem hexDigits_length (w v : Nat) : (hexDigits w v).length = w := by
  induction w with
  | zero => rfl
  | succ w ih => simp [hexDigits, ih]

@[simp] theorem hex16_length (c : BitVec 16) : (hex16 c).length = 4 := hexDigits_length 4 _

@[simp] theorem hex64_length (v : Word) : (hex64 v).length = 16 := hexDigits_length 16 _

/-- `hexChar` and `hexVal` on the sixteen digits. -/
theorem hexChar_spec : ∀ d : Fin 16, isHex (hexChar d) = true ∧ hexVal (hexChar d) = d := by decide

theorem isHex_hexChar {d : Nat} (h : d < 16) : isHex (hexChar d) = true := (hexChar_spec ⟨d, h⟩).1

theorem hexVal_hexChar {d : Nat} (h : d < 16) : hexVal (hexChar d) = d := (hexChar_spec ⟨d, h⟩).2

@[simp] theorem allHex_hexDigits (w v : Nat) : allHex (hexDigits w v) = true := by
  induction w with
  | zero => rfl
  | succ w ih =>
    have h := isHex_hexChar (Nat.mod_lt (v / 16 ^ w) (by decide : 0 < 16))
    simp only [allHex] at ih ⊢
    simp only [hexDigits, List.all_cons, h, ih, Bool.and_self]

@[simp] theorem allHex_append (s t : List Byte) : allHex (s ++ t) = (allHex s && allHex t) := by
  simp [allHex]

theorem allHex_take {s : List Byte} (h : allHex s = true) (n : Nat) : allHex (s.take n) = true := by
  simp only [allHex, List.all_eq_true] at h ⊢
  exact fun c hc => h c (List.mem_of_mem_take hc)

theorem allHex_drop {s : List Byte} (h : allHex s = true) (n : Nat) : allHex (s.drop n) = true := by
  simp only [allHex, List.all_eq_true] at h ⊢
  exact fun c hc => h c (List.mem_of_mem_drop hc)

theorem foldl_hexDigits (w v a : Nat) :
    (hexDigits w v).foldl (fun v c => v * 16 + hexVal c) a = a * 16 ^ w + v % 16 ^ w := by
  induction w generalizing a with
  | zero => simp [hexDigits, Nat.mod_one]
  | succ w ih =>
    rw [hexDigits, List.foldl_cons, ih, hexVal_hexChar (Nat.mod_lt _ (by decide))]
    have h : v % 16 ^ (w + 1) = v % 16 ^ w + 16 ^ w * (v / 16 ^ w % 16) := by
      rw [Nat.pow_succ, Nat.mod_mul]
    rw [h, Nat.pow_succ]
    ring

/-- The value of the `w` digits of `v`. -/
@[simp] theorem hexValue_hexDigits (w v : Nat) : hexValue (hexDigits w v) = v % 16 ^ w := by
  simpa [hexValue] using foldl_hexDigits w v 0

theorem decU_of_allHex {s : List Byte} (h0 : s ≠ []) (h : allHex s = true) : decU s = some (hexValue s) := by
  simp [decU, h0, h]

theorem decU_eq_some {s : List Byte} {v : Nat} : decU s = some v ↔ s ≠ [] ∧ allHex s = true ∧ hexValue s = v := by
  unfold decU
  split
  · simp_all
  · split <;> simp_all

theorem decU_hexDigits {w : Nat} (hw : w ≠ 0) (v : Nat) : decU (hexDigits w v) = some (v % 16 ^ w) := by
  have h0 : hexDigits w v ≠ [] := by
    intro h
    have := congrArg List.length h
    simp at this
    exact hw this
  rw [decU_of_allHex h0 (allHex_hexDigits w v), hexValue_hexDigits]

@[simp] theorem decU_hex16 (c : BitVec 16) : decU (hex16 c) = some c.toNat := by
  rw [hex16, decU_hexDigits (by decide), Nat.mod_eq_of_lt (by have := c.isLt; omega)]

@[simp] theorem decU_hex64 (v : Word) : decU (hex64 v) = some v.toNat := by
  rw [hex64, decU_hexDigits (by decide), Nat.mod_eq_of_lt (by have := v.isLt; omega)]

theorem hexVal_lt {c : Byte} (h : isHex c = true) : hexVal c < 16 := by
  simp only [isHex, Bool.or_eq_true, Bool.and_eq_true, decide_eq_true_eq] at h
  simp only [hexVal]
  split
  · omega
  · split <;> omega

theorem foldl_hexVal_lt (s : List Byte) (h : allHex s = true) (a : Nat) :
    s.foldl (fun v c => v * 16 + hexVal c) a < (a + 1) * 16 ^ s.length := by
  induction s generalizing a with
  | nil => simp
  | cons c s ih =>
    simp only [allHex, List.all_cons, Bool.and_eq_true] at h
    have h1 := ih h.2 (a * 16 + hexVal c)
    have h2 := hexVal_lt h.1
    have h3 : (a * 16 + hexVal c + 1) * 16 ^ s.length ≤ (a + 1) * 16 * 16 ^ s.length :=
      Nat.mul_le_mul_right _ (by omega)
    rw [List.foldl_cons, List.length_cons, Nat.pow_succ]
    calc _ < _ := h1
      _ ≤ _ := h3
      _ = _ := by ring

/-- The value of a string of `n` digits is below `16^n` (40_hexcodec.md R101). -/
theorem hexValue_lt {s : List Byte} (h : allHex s = true) : hexValue s < 16 ^ s.length := by
  simpa [hexValue] using foldl_hexVal_lt s h 0

end Sys2Proof
end

