-- ==== Sys2Proof/Laws/Memory.lean ====
section
/-! SUPPORT. The laws of the character buffers: read after write, the canonical form, strings. -/

namespace Sys2Proof.Machine

@[simp] theorem Memory.read_nil (a : Nat) : Memory.read [] a = none := rfl

theorem Memory.read_append (m m' : Memory) (x : Nat) : Memory.read (m ++ m') x = (m.read x).or (Memory.read m' x) := by
  induction m with
  | nil => rfl
  | cons c m ih =>
    simp only [List.cons_append, Memory.read]
    split
    · rfl
    · exact ih

/-- Reading what is left of a buffer when the entries of some indices are dropped. -/
theorem Memory.read_filter (m : Memory) (p : Nat → Bool) (x : Nat) :
    Memory.read (m.filter (fun c => p c.1)) x = if p x then m.read x else none := by
  induction m with
  | nil => simp [Memory.read, Memory.unlisted]
  | cons c m ih =>
    by_cases hc : c.1 = x
    · cases hp : p x <;> simp [hc, hp, Memory.read, ih]
    · cases hp : p c.1 <;> simp [hc, hp, Memory.read, ih]

theorem Memory.read_cells (a x : Nat) (t : List Byte) :
    (Memory.cells a t).read x = if a ≤ x then t[x - a]? else none := by
  induction t generalizing a with
  | nil => simp [Memory.cells]
  | cons b t ih =>
    simp only [Memory.cells, Memory.read, ih]
    by_cases h : a = x
    · simp [h]
    · by_cases h2 : a + 1 ≤ x
      · have h4 : x - a = (x - (a + 1)) + 1 := by omega
        simp only [h, h2, if_true, if_false, show a ≤ x by omega, h4, List.getElem?_cons_succ]
      · simp only [h, h2, if_false, show ¬ a ≤ x by omega]

theorem Memory.mem_cells {a : Nat} {t : List Byte} {c : Host.Cell} (h : c ∈ Memory.cells a t) :
    a ≤ c.1 ∧ c.1 < a + t.length := by
  induction t generalizing a with
  | nil => simp [Memory.cells] at h
  | cons b t ih =>
    simp only [Memory.cells, List.mem_cons] at h
    rcases h with rfl | h
    · simp
    · have := ih h
      simp only [List.length_cons]
      omega

theorem Memory.cells_wf (a : Nat) (t : List Byte) : (Memory.cells a t).wf := by
  induction t generalizing a with
  | nil => simp [Memory.cells, Memory.wf]
  | cons b t ih =>
    refine List.pairwise_cons.mpr ⟨fun c hc => ?_, ih (a + 1)⟩
    have := Memory.mem_cells hc
    show a < c.1
    omega

/-- Writing keeps the canonical form. -/
theorem Memory.writeString_wf {m : Memory} (h : m.wf) (a : Nat) (t : List Byte) : (m.writeString a t).wf := by
  refine List.pairwise_append.mpr ⟨List.pairwise_append.mpr ⟨h.filter _, Memory.cells_wf a t, ?_⟩, h.filter _, ?_⟩
  · intro c hc d hd
    have h1 := (List.mem_filter.mp hc).2
    have h2 := Memory.mem_cells hd
    simp only [decide_eq_true_eq] at h1
    omega
  · intro c hc d hd
    have h2 := (List.mem_filter.mp hd).2
    simp only [decide_eq_true_eq] at h2
    rcases List.mem_append.mp hc with hc | hc
    · have h1 := (List.mem_filter.mp hc).2
      simp only [decide_eq_true_eq] at h1
      omega
    · have h1 := Memory.mem_cells hc
      omega

theorem Memory.ofString_wf (t : List Byte) : (Memory.ofString t).wf := Memory.cells_wf 0 t

/-- Every index reads as the string written there, or as before. -/
theorem Memory.read_writeString (m : Memory) (a x : Nat) (t : List Byte) :
    (m.writeString a t).read x = if a ≤ x ∧ x < a + t.length then t[x - a]? else m.read x := by
  rw [Memory.writeString, Memory.read_append, Memory.read_append,
    Memory.read_filter m (fun k => decide (k < a)), Memory.read_filter m (fun k => decide (a + t.length ≤ k)),
    Memory.read_cells]
  by_cases h1 : x < a
  · simp only [h1, show ¬ a ≤ x by omega, show ¬ a + t.length ≤ x by omega, false_and, decide_true, decide_false,
      if_true, if_false]
    cases m.read x <;> rfl
  · by_cases h2 : x < a + t.length
    · have h3 : t[x - a]? = some t[x - a] := List.getElem?_eq_getElem (by omega)
      simp [h1, h2, h3, show a ≤ x by omega]
    · have h3 : t[x - a]? = none := List.getElem?_eq_none (by omega)
      simp [h1, h2, h3, show a ≤ x by omega, show a + t.length ≤ x by omega]

theorem Memory.readString_eq_some {m : Memory} {a : Nat} {t : List Byte}
    (h : ∀ i, i < t.length → m.read (a + i) = t[i]?) : m.readString a t.length = some t := by
  induction t generalizing a with
  | nil => rfl
  | cons b t ih =>
    have h0 : m.read a = some b := by simpa using h 0 (by simp)
    have hs := ih (a := a + 1) (fun i hi => by
      have := h (i + 1) (by simpa using hi)
      rw [show a + (i + 1) = a + 1 + i by omega] at this
      simpa using this)
    rw [List.length_cons, Memory.readString, h0, hs]

/-- A string written is the string read back. -/
theorem Memory.readString_writeString (m : Memory) (a : Nat) (t : List Byte) :
    (m.writeString a t).readString a t.length = some t :=
  Memory.readString_eq_some fun i hi => by
    rw [Memory.read_writeString, if_pos (by omega), Nat.add_sub_cancel_left]

@[simp] theorem Memory.writeString_empty (t : List Byte) : Memory.writeString [] 0 t = Memory.ofString t := by
  simp [Memory.writeString, Memory.ofString]

@[simp] theorem Memory.readString_ofString (t : List Byte) :
    (Memory.ofString t).readString 0 t.length = some t := by
  rw [← Memory.writeString_empty]
  exact Memory.readString_writeString [] 0 t

theorem Memory.Holds.wf {m : Memory} {n : Nat} (h : m.Holds n) : m.wf := by
  obtain ⟨t, rfl, -⟩ := h
  exact Memory.ofString_wf t

/-- A buffer that holds its characters reads as a string. -/
theorem Memory.Holds.readString {m : Memory} {n : Nat} (h : m.Holds n) :
    ∃ t, m.readString 0 n = some t ∧ m = Memory.ofString t ∧ n = t.length := by
  obtain ⟨t, rfl, rfl⟩ := h
  exact ⟨t, Memory.readString_ofString t, rfl, rfl⟩

theorem Memory.Holds.empty : Memory.Holds [] 0 := ⟨[], rfl, rfl⟩

theorem Memory.Holds.ofString (t : List Byte) : (Memory.ofString t).Holds t.length := ⟨t, rfl, rfl⟩

end Sys2Proof.Machine
end

