-- ==== Sys2Proof/Laws/State.lean ====
section
/-! SUPPORT. What each update of the state leaves in each field: one lemma per field per update. -/

namespace Sys2Proof.Machine

@[simp] theorem keepIf_true {α : Type} (x : Option α) : keepIf true x = x := rfl
@[simp] theorem keepIf_false {α : Type} (x : Option α) : keepIf false x = none := rfl

@[simp] theorem State.start_st (k : Kept) (s : State) : (s.start k).st = .unparsed := rfl
@[simp] theorem State.start_err (k : Kept) (s : State) : (s.start k).err = none := rfl
@[simp] theorem State.start_refusal (k : Kept) (s : State) : (s.start k).refusal = none := rfl
@[simp] theorem State.start_crc (k : Kept) (s : State) : (s.start k).crc = s.crc := rfl
@[simp] theorem State.start_tag (k : Kept) (s : State) : (s.start k).tag = keepIf (k.tag || k.message) s.tag := rfl
@[simp] theorem State.start_code (k : Kept) (s : State) : (s.start k).code = keepIf k.message s.code := rfl
@[simp] theorem State.start_seq (k : Kept) (s : State) : (s.start k).seq = keepIf (k.seq || k.message) s.seq := rfl
@[simp] theorem State.start_mac (k : Kept) (s : State) : (s.start k).mac = keepIf k.message s.mac := rfl
@[simp] theorem State.start_f (k : Kept) (s : State) : (s.start k).f = s.f.map (keepIf k.message) := rfl
@[simp] theorem State.start_val (k : Kept) (s : State) : (s.start k).val = keepIf k.val s.val := rfl
@[simp] theorem State.start_w (k : Kept) (s : State) : (s.start k).w = s.w := rfl
@[simp] theorem State.start_ib (k : Kept) (s : State) : (s.start k).ib = s.ib := rfl
@[simp] theorem State.start_ilen (k : Kept) (s : State) : (s.start k).ilen = s.ilen := rfl
@[simp] theorem State.start_ob (k : Kept) (s : State) : (s.start k).ob = [] := rfl
@[simp] theorem State.start_olen (k : Kept) (s : State) : (s.start k).olen = 0 := rfl
@[simp] theorem State.start_reg (k : Kept) (s : State) : (s.start k).reg = s.reg := rfl
@[simp] theorem State.start_vt (k : Kept) (s : State) : (s.start k).vt = s.vt := rfl
@[simp] theorem State.start_queue (k : Kept) (s : State) : (s.start k).queue = s.queue := rfl

@[simp] theorem State.fail_st (e : CodecError) (s : State) : (s.fail e).st = .failed := rfl
@[simp] theorem State.fail_err (e : CodecError) (s : State) : (s.fail e).err = some e := rfl
@[simp] theorem State.fail_refusal (e : CodecError) (s : State) : (s.fail e).refusal = s.refusal := rfl
@[simp] theorem State.fail_crc (e : CodecError) (s : State) : (s.fail e).crc = s.crc := rfl
@[simp] theorem State.fail_tag (e : CodecError) (s : State) : (s.fail e).tag = s.tag := rfl
@[simp] theorem State.fail_code (e : CodecError) (s : State) : (s.fail e).code = s.code := rfl
@[simp] theorem State.fail_seq (e : CodecError) (s : State) : (s.fail e).seq = s.seq := rfl
@[simp] theorem State.fail_mac (e : CodecError) (s : State) : (s.fail e).mac = s.mac := rfl
@[simp] theorem State.fail_f (e : CodecError) (s : State) : (s.fail e).f = s.f := rfl
@[simp] theorem State.fail_val (e : CodecError) (s : State) : (s.fail e).val = s.val := rfl
@[simp] theorem State.fail_w (e : CodecError) (s : State) : (s.fail e).w = s.w := rfl
@[simp] theorem State.fail_ib (e : CodecError) (s : State) : (s.fail e).ib = s.ib := rfl
@[simp] theorem State.fail_ilen (e : CodecError) (s : State) : (s.fail e).ilen = s.ilen := rfl
@[simp] theorem State.fail_ob (e : CodecError) (s : State) : (s.fail e).ob = s.ob := rfl
@[simp] theorem State.fail_olen (e : CodecError) (s : State) : (s.fail e).olen = s.olen := rfl
@[simp] theorem State.fail_reg (e : CodecError) (s : State) : (s.fail e).reg = s.reg := rfl
@[simp] theorem State.fail_vt (e : CodecError) (s : State) : (s.fail e).vt = s.vt := rfl
@[simp] theorem State.fail_queue (e : CodecError) (s : State) : (s.fail e).queue = s.queue := rfl

@[simp] theorem State.refused_st (r : RefusalReason) (s : State) : (s.refused r).st = .unparsed := rfl
@[simp] theorem State.refused_err (r : RefusalReason) (s : State) : (s.refused r).err = s.err := rfl
@[simp] theorem State.refused_refusal (r : RefusalReason) (s : State) : (s.refused r).refusal = some r := rfl
@[simp] theorem State.refused_crc (r : RefusalReason) (s : State) : (s.refused r).crc = s.crc := rfl
@[simp] theorem State.refused_tag (r : RefusalReason) (s : State) : (s.refused r).tag = s.tag := rfl
@[simp] theorem State.refused_code (r : RefusalReason) (s : State) : (s.refused r).code = s.code := rfl
@[simp] theorem State.refused_seq (r : RefusalReason) (s : State) : (s.refused r).seq = s.seq := rfl
@[simp] theorem State.refused_mac (r : RefusalReason) (s : State) : (s.refused r).mac = s.mac := rfl
@[simp] theorem State.refused_f (r : RefusalReason) (s : State) : (s.refused r).f = s.f := rfl
@[simp] theorem State.refused_val (r : RefusalReason) (s : State) : (s.refused r).val = s.val := rfl
@[simp] theorem State.refused_w (r : RefusalReason) (s : State) : (s.refused r).w = s.w := rfl
@[simp] theorem State.refused_ib (r : RefusalReason) (s : State) : (s.refused r).ib = s.ib := rfl
@[simp] theorem State.refused_ilen (r : RefusalReason) (s : State) : (s.refused r).ilen = s.ilen := rfl
@[simp] theorem State.refused_ob (r : RefusalReason) (s : State) : (s.refused r).ob = s.ob := rfl
@[simp] theorem State.refused_olen (r : RefusalReason) (s : State) : (s.refused r).olen = s.olen := rfl
@[simp] theorem State.refused_reg (r : RefusalReason) (s : State) : (s.refused r).reg = s.reg := rfl
@[simp] theorem State.refused_vt (r : RefusalReason) (s : State) : (s.refused r).vt = s.vt := rfl
@[simp] theorem State.refused_queue (r : RefusalReason) (s : State) : (s.refused r).queue = s.queue := rfl

@[simp] theorem State.memWrite_st (a : Nat) (t : List Byte) (s : State) : (s.memWrite a t).st = s.st := rfl
@[simp] theorem State.memWrite_err (a : Nat) (t : List Byte) (s : State) : (s.memWrite a t).err = s.err := rfl
@[simp] theorem State.memWrite_refusal (a : Nat) (t : List Byte) (s : State) : (s.memWrite a t).refusal = s.refusal := rfl
@[simp] theorem State.memWrite_crc (a : Nat) (t : List Byte) (s : State) : (s.memWrite a t).crc = s.crc := rfl
@[simp] theorem State.memWrite_tag (a : Nat) (t : List Byte) (s : State) : (s.memWrite a t).tag = s.tag := rfl
@[simp] theorem State.memWrite_code (a : Nat) (t : List Byte) (s : State) : (s.memWrite a t).code = s.code := rfl
@[simp] theorem State.memWrite_seq (a : Nat) (t : List Byte) (s : State) : (s.memWrite a t).seq = s.seq := rfl
@[simp] theorem State.memWrite_mac (a : Nat) (t : List Byte) (s : State) : (s.memWrite a t).mac = s.mac := rfl
@[simp] theorem State.memWrite_f (a : Nat) (t : List Byte) (s : State) : (s.memWrite a t).f = s.f := rfl
@[simp] theorem State.memWrite_val (a : Nat) (t : List Byte) (s : State) : (s.memWrite a t).val = s.val := rfl
@[simp] theorem State.memWrite_w (a : Nat) (t : List Byte) (s : State) : (s.memWrite a t).w = s.w := rfl
@[simp] theorem State.memWrite_ib (a : Nat) (t : List Byte) (s : State) : (s.memWrite a t).ib = s.ib := rfl
@[simp] theorem State.memWrite_ilen (a : Nat) (t : List Byte) (s : State) : (s.memWrite a t).ilen = s.ilen := rfl
@[simp] theorem State.memWrite_ob (a : Nat) (t : List Byte) (s : State) :
    (s.memWrite a t).ob = s.ob.writeString a t := rfl
@[simp] theorem State.memWrite_olen (a : Nat) (t : List Byte) (s : State) :
    (s.memWrite a t).olen = max s.olen (a + t.length) := rfl
@[simp] theorem State.memWrite_reg (a : Nat) (t : List Byte) (s : State) : (s.memWrite a t).reg = s.reg := rfl
@[simp] theorem State.memWrite_vt (a : Nat) (t : List Byte) (s : State) : (s.memWrite a t).vt = s.vt := rfl
@[simp] theorem State.memWrite_queue (a : Nat) (t : List Byte) (s : State) : (s.memWrite a t).queue = s.queue := rfl

@[simp] theorem State.out_st (t : List Byte) (s : State) : (s.out t).st = .parsed := rfl
@[simp] theorem State.out_err (t : List Byte) (s : State) : (s.out t).err = s.err := rfl
@[simp] theorem State.out_refusal (t : List Byte) (s : State) : (s.out t).refusal = s.refusal := rfl
@[simp] theorem State.out_crc (t : List Byte) (s : State) : (s.out t).crc = s.crc := rfl
@[simp] theorem State.out_tag (t : List Byte) (s : State) : (s.out t).tag = s.tag := rfl
@[simp] theorem State.out_code (t : List Byte) (s : State) : (s.out t).code = s.code := rfl
@[simp] theorem State.out_seq (t : List Byte) (s : State) : (s.out t).seq = s.seq := rfl
@[simp] theorem State.out_mac (t : List Byte) (s : State) : (s.out t).mac = s.mac := rfl
@[simp] theorem State.out_f (t : List Byte) (s : State) : (s.out t).f = s.f := rfl
@[simp] theorem State.out_val (t : List Byte) (s : State) : (s.out t).val = s.val := rfl
@[simp] theorem State.out_w (t : List Byte) (s : State) : (s.out t).w = s.w := rfl
@[simp] theorem State.out_ib (t : List Byte) (s : State) : (s.out t).ib = s.ib := rfl
@[simp] theorem State.out_ilen (t : List Byte) (s : State) : (s.out t).ilen = s.ilen := rfl
@[simp] theorem State.out_ob (t : List Byte) (s : State) : (s.out t).ob = s.ob.writeString 0 t := rfl
@[simp] theorem State.out_olen (t : List Byte) (s : State) : (s.out t).olen = t.length := rfl
@[simp] theorem State.out_reg (t : List Byte) (s : State) : (s.out t).reg = s.reg := rfl
@[simp] theorem State.out_vt (t : List Byte) (s : State) : (s.out t).vt = s.vt := rfl
@[simp] theorem State.out_queue (t : List Byte) (s : State) : (s.out t).queue = s.queue := rfl

@[simp] theorem State.value_st (v : Nat) (s : State) : (s.value v).st = .parsed := rfl
@[simp] theorem State.value_err (v : Nat) (s : State) : (s.value v).err = s.err := rfl
@[simp] theorem State.value_refusal (v : Nat) (s : State) : (s.value v).refusal = s.refusal := rfl
@[simp] theorem State.value_crc (v : Nat) (s : State) : (s.value v).crc = s.crc := rfl
@[simp] theorem State.value_tag (v : Nat) (s : State) : (s.value v).tag = s.tag := rfl
@[simp] theorem State.value_code (v : Nat) (s : State) : (s.value v).code = s.code := rfl
@[simp] theorem State.value_seq (v : Nat) (s : State) : (s.value v).seq = s.seq := rfl
@[simp] theorem State.value_mac (v : Nat) (s : State) : (s.value v).mac = s.mac := rfl
@[simp] theorem State.value_f (v : Nat) (s : State) : (s.value v).f = s.f := rfl
@[simp] theorem State.value_val (v : Nat) (s : State) : (s.value v).val = some (BitVec.ofNat 64 v) := rfl
@[simp] theorem State.value_w (v : Nat) (s : State) : (s.value v).w = s.w := rfl
@[simp] theorem State.value_ib (v : Nat) (s : State) : (s.value v).ib = s.ib := rfl
@[simp] theorem State.value_ilen (v : Nat) (s : State) : (s.value v).ilen = s.ilen := rfl
@[simp] theorem State.value_ob (v : Nat) (s : State) : (s.value v).ob = s.ob := rfl
@[simp] theorem State.value_olen (v : Nat) (s : State) : (s.value v).olen = s.olen := rfl
@[simp] theorem State.value_reg (v : Nat) (s : State) : (s.value v).reg = s.reg := rfl
@[simp] theorem State.value_vt (v : Nat) (s : State) : (s.value v).vt = s.vt := rfl
@[simp] theorem State.value_queue (v : Nat) (s : State) : (s.value v).queue = s.queue := rfl

@[simp] theorem State.checksum_st (t : List Byte) (s : State) : (s.checksum t).st = s.st := rfl
@[simp] theorem State.checksum_err (t : List Byte) (s : State) : (s.checksum t).err = s.err := rfl
@[simp] theorem State.checksum_refusal (t : List Byte) (s : State) : (s.checksum t).refusal = s.refusal := rfl
@[simp] theorem State.checksum_crc (t : List Byte) (s : State) : (s.checksum t).crc = crc16 t := rfl
@[simp] theorem State.checksum_tag (t : List Byte) (s : State) : (s.checksum t).tag = s.tag := rfl
@[simp] theorem State.checksum_code (t : List Byte) (s : State) : (s.checksum t).code = s.code := rfl
@[simp] theorem State.checksum_seq (t : List Byte) (s : State) : (s.checksum t).seq = s.seq := rfl
@[simp] theorem State.checksum_mac (t : List Byte) (s : State) : (s.checksum t).mac = s.mac := rfl
@[simp] theorem State.checksum_f (t : List Byte) (s : State) : (s.checksum t).f = s.f := rfl
@[simp] theorem State.checksum_val (t : List Byte) (s : State) : (s.checksum t).val = s.val := rfl
@[simp] theorem State.checksum_w (t : List Byte) (s : State) : (s.checksum t).w = s.w := rfl
@[simp] theorem State.checksum_ib (t : List Byte) (s : State) : (s.checksum t).ib = s.ib := rfl
@[simp] theorem State.checksum_ilen (t : List Byte) (s : State) : (s.checksum t).ilen = s.ilen := rfl
@[simp] theorem State.checksum_ob (t : List Byte) (s : State) : (s.checksum t).ob = s.ob := rfl
@[simp] theorem State.checksum_olen (t : List Byte) (s : State) : (s.checksum t).olen = s.olen := rfl
@[simp] theorem State.checksum_reg (t : List Byte) (s : State) : (s.checksum t).reg = s.reg := rfl
@[simp] theorem State.checksum_vt (t : List Byte) (s : State) : (s.checksum t).vt = s.vt := rfl
@[simp] theorem State.checksum_queue (t : List Byte) (s : State) : (s.checksum t).queue = s.queue := rfl

@[simp] theorem State.message_st (t : Tag) (c : BitVec 16) (q : Option (BitVec 16)) (m : Option Word) (fs : List Word) (s : State) :
    (s.message t c q m fs).st = .parsed := rfl
@[simp] theorem State.message_err (t : Tag) (c : BitVec 16) (q : Option (BitVec 16)) (m : Option Word) (fs : List Word) (s : State) :
    (s.message t c q m fs).err = s.err := rfl
@[simp] theorem State.message_refusal (t : Tag) (c : BitVec 16) (q : Option (BitVec 16)) (m : Option Word) (fs : List Word)
    (s : State) : (s.message t c q m fs).refusal = s.refusal := rfl
@[simp] theorem State.message_crc (t : Tag) (c : BitVec 16) (q : Option (BitVec 16)) (m : Option Word) (fs : List Word) (s : State) :
    (s.message t c q m fs).crc = s.crc := rfl
@[simp] theorem State.message_tag (t : Tag) (c : BitVec 16) (q : Option (BitVec 16)) (m : Option Word) (fs : List Word) (s : State) :
    (s.message t c q m fs).tag = some t := rfl
@[simp] theorem State.message_code (t : Tag) (c : BitVec 16) (q : Option (BitVec 16)) (m : Option Word) (fs : List Word) (s : State) :
    (s.message t c q m fs).code = some c := rfl
@[simp] theorem State.message_seq (t : Tag) (c : BitVec 16) (q : Option (BitVec 16)) (m : Option Word) (fs : List Word) (s : State) :
    (s.message t c q m fs).seq = q := rfl
@[simp] theorem State.message_mac (t : Tag) (c : BitVec 16) (q : Option (BitVec 16)) (m : Option Word) (fs : List Word) (s : State) :
    (s.message t c q m fs).mac = m := rfl
@[simp] theorem State.message_f (t : Tag) (c : BitVec 16) (q : Option (BitVec 16)) (m : Option Word) (fs : List Word) (s : State) :
    (s.message t c q m fs).f = fs.map some ++ List.replicate (s.f.length - fs.length) none := rfl
@[simp] theorem State.message_val (t : Tag) (c : BitVec 16) (q : Option (BitVec 16)) (m : Option Word) (fs : List Word) (s : State) :
    (s.message t c q m fs).val = s.val := rfl
@[simp] theorem State.message_w (t : Tag) (c : BitVec 16) (q : Option (BitVec 16)) (m : Option Word) (fs : List Word) (s : State) :
    (s.message t c q m fs).w = s.w := rfl
@[simp] theorem State.message_ib (t : Tag) (c : BitVec 16) (q : Option (BitVec 16)) (m : Option Word) (fs : List Word) (s : State) :
    (s.message t c q m fs).ib = s.ib := rfl
@[simp] theorem State.message_ilen (t : Tag) (c : BitVec 16) (q : Option (BitVec 16)) (m : Option Word) (fs : List Word) (s : State) :
    (s.message t c q m fs).ilen = s.ilen := rfl
@[simp] theorem State.message_ob (t : Tag) (c : BitVec 16) (q : Option (BitVec 16)) (m : Option Word) (fs : List Word) (s : State) :
    (s.message t c q m fs).ob = s.ob := rfl
@[simp] theorem State.message_olen (t : Tag) (c : BitVec 16) (q : Option (BitVec 16)) (m : Option Word) (fs : List Word) (s : State) :
    (s.message t c q m fs).olen = s.olen := rfl
@[simp] theorem State.message_reg (t : Tag) (c : BitVec 16) (q : Option (BitVec 16)) (m : Option Word) (fs : List Word) (s : State) :
    (s.message t c q m fs).reg = s.reg := rfl
@[simp] theorem State.message_vt (t : Tag) (c : BitVec 16) (q : Option (BitVec 16)) (m : Option Word) (fs : List Word) (s : State) :
    (s.message t c q m fs).vt = s.vt := rfl
@[simp] theorem State.message_queue (t : Tag) (c : BitVec 16) (q : Option (BitVec 16)) (m : Option Word) (fs : List Word) (s : State) :
    (s.message t c q m fs).queue = s.queue := rfl

@[simp] theorem State.asVariant_st (t : Tag) (s : State) : (s.asVariant t).st = s.st := rfl
@[simp] theorem State.asVariant_err (t : Tag) (s : State) : (s.asVariant t).err = s.err := rfl
@[simp] theorem State.asVariant_refusal (t : Tag) (s : State) : (s.asVariant t).refusal = s.refusal := rfl
@[simp] theorem State.asVariant_crc (t : Tag) (s : State) : (s.asVariant t).crc = s.crc := rfl
@[simp] theorem State.asVariant_tag (t : Tag) (s : State) : (s.asVariant t).tag = some t := rfl
@[simp] theorem State.asVariant_code (t : Tag) (s : State) : (s.asVariant t).code = some (s.reg.get t) := rfl
@[simp] theorem State.asVariant_seq (t : Tag) (s : State) : (s.asVariant t).seq = s.seq := rfl
@[simp] theorem State.asVariant_mac (t : Tag) (s : State) : (s.asVariant t).mac = s.mac := rfl
@[simp] theorem State.asVariant_f (t : Tag) (s : State) : (s.asVariant t).f = s.f := rfl
@[simp] theorem State.asVariant_val (t : Tag) (s : State) : (s.asVariant t).val = s.val := rfl
@[simp] theorem State.asVariant_w (t : Tag) (s : State) : (s.asVariant t).w = s.w := rfl
@[simp] theorem State.asVariant_ib (t : Tag) (s : State) : (s.asVariant t).ib = s.ib := rfl
@[simp] theorem State.asVariant_ilen (t : Tag) (s : State) : (s.asVariant t).ilen = s.ilen := rfl
@[simp] theorem State.asVariant_ob (t : Tag) (s : State) : (s.asVariant t).ob = s.ob := rfl
@[simp] theorem State.asVariant_olen (t : Tag) (s : State) : (s.asVariant t).olen = s.olen := rfl
@[simp] theorem State.asVariant_reg (t : Tag) (s : State) : (s.asVariant t).reg = s.reg := rfl
@[simp] theorem State.asVariant_vt (t : Tag) (s : State) : (s.asVariant t).vt = s.vt := rfl
@[simp] theorem State.asVariant_queue (t : Tag) (s : State) : (s.asVariant t).queue = s.queue := rfl

@[simp] theorem State.load_st (o : Operands) (s : State) : (s.load o).st = s.st := rfl
@[simp] theorem State.load_err (o : Operands) (s : State) : (s.load o).err = s.err := rfl
@[simp] theorem State.load_refusal (o : Operands) (s : State) : (s.load o).refusal = s.refusal := rfl
@[simp] theorem State.load_crc (o : Operands) (s : State) : (s.load o).crc = s.crc := rfl
@[simp] theorem State.load_tag (o : Operands) (s : State) : (s.load o).tag = o.tag := rfl
@[simp] theorem State.load_code (o : Operands) (s : State) : (s.load o).code = o.tag.map s.reg.get := rfl
@[simp] theorem State.load_seq (o : Operands) (s : State) : (s.load o).seq = o.seq := rfl
@[simp] theorem State.load_mac (o : Operands) (s : State) : (s.load o).mac = o.mac := rfl
@[simp] theorem State.load_f (o : Operands) (s : State) :
    (s.load o).f = o.fields ++ List.replicate (s.f.length - o.fields.length) none := rfl
@[simp] theorem State.load_val (o : Operands) (s : State) : (s.load o).val = o.val := rfl
@[simp] theorem State.load_w (o : Operands) (s : State) : (s.load o).w = o.w := rfl
@[simp] theorem State.load_ib (o : Operands) (s : State) : (s.load o).ib = Memory.ofString o.ib := rfl
@[simp] theorem State.load_ilen (o : Operands) (s : State) : (s.load o).ilen = o.ib.length := rfl
@[simp] theorem State.load_ob (o : Operands) (s : State) : (s.load o).ob = s.ob := rfl
@[simp] theorem State.load_olen (o : Operands) (s : State) : (s.load o).olen = s.olen := rfl
@[simp] theorem State.load_reg (o : Operands) (s : State) : (s.load o).reg = s.reg := rfl
@[simp] theorem State.load_vt (o : Operands) (s : State) : (s.load o).vt = s.vt := rfl
@[simp] theorem State.load_queue (o : Operands) (s : State) : (s.load o).queue = s.queue := rfl

@[simp] theorem State.hostReset_st (s : State) : s.hostReset.st = .unparsed := rfl
@[simp] theorem State.hostReset_err (s : State) : s.hostReset.err = none := rfl
@[simp] theorem State.hostReset_refusal (s : State) : (s.hostReset).refusal = none := rfl
@[simp] theorem State.hostReset_crc (s : State) : s.hostReset.crc = 0x0000 := rfl
@[simp] theorem State.hostReset_tag (s : State) : s.hostReset.tag = none := rfl
@[simp] theorem State.hostReset_code (s : State) : s.hostReset.code = none := rfl
@[simp] theorem State.hostReset_seq (s : State) : s.hostReset.seq = none := rfl
@[simp] theorem State.hostReset_mac (s : State) : s.hostReset.mac = none := rfl
@[simp] theorem State.hostReset_f (s : State) : s.hostReset.f = List.replicate s.f.length none := rfl
@[simp] theorem State.hostReset_val (s : State) : s.hostReset.val = none := rfl
@[simp] theorem State.hostReset_w (s : State) : s.hostReset.w = none := rfl
@[simp] theorem State.hostReset_ib (s : State) : s.hostReset.ib = [] := rfl
@[simp] theorem State.hostReset_ilen (s : State) : s.hostReset.ilen = 0 := rfl
@[simp] theorem State.hostReset_ob (s : State) : s.hostReset.ob = [] := rfl
@[simp] theorem State.hostReset_olen (s : State) : s.hostReset.olen = 0 := rfl
@[simp] theorem State.hostReset_reg (s : State) : s.hostReset.reg = s.reg := rfl
@[simp] theorem State.hostReset_vt (s : State) : s.hostReset.vt = s.vt := rfl
@[simp] theorem State.hostReset_queue (s : State) : s.hostReset.queue = s.queue := rfl

end Sys2Proof.Machine
end

