-- ==== Sys2Proof/Laws/Ops.lean ====
section
/-! SUPPORT. What the shared operations of the commands can do: one lemma each, to be cited instead of unfolding. -/

namespace Sys2Proof.Machine

/-- A sequence of checks that succeeds. -/
theorem bind_eq_ok {α β : Type} {x : Except Stop α} {f : α → Except Stop β} {b : β} :
    (x >>= f) = .ok b ↔ ∃ a, x = .ok a ∧ f a = .ok b := by
  cases x <;> simp [bind, Except.bind]

/-- A sequence of checks that stops. -/
theorem bind_eq_error {α β : Type} {x : Except Stop α} {f : α → Except Stop β} {e : Stop} :
    (x >>= f) = .error e ↔ x = .error e ∨ ∃ a, x = .ok a ∧ f a = .error e := by
  cases x <;> simp [bind, Except.bind]

@[simp] theorem ok_bind {α β : Type} (a : α) (f : α → Except Stop β) : ((.ok a : Except Stop α) >>= f) = f a := rfl

@[simp] theorem error_bind {α β : Type} (e : Stop) (f : α → Except Stop β) :
    ((.error e : Except Stop α) >>= f) = .error e := rfl

@[simp] theorem pure_eq_ok {α : Type} (a : α) : (pure a : Except Stop α) = .ok a := rfl

theorem require_eq_ok {c : Prop} [Decidable c] {e : Stop} {u : Unit} : require c e = .ok u ↔ c := by
  unfold require
  split <;> simp_all

theorem require_eq_error {c : Prop} [Decidable c] {e e' : Stop} : require c e = .error e' ↔ ¬ c ∧ e = e' := by
  unfold require
  split <;> simp_all

@[simp] theorem require_pos {c : Prop} [Decidable c] (h : c) (e : Stop) : require c e = .ok () := if_pos h

@[simp] theorem require_neg {c : Prop} [Decidable c] (h : ¬ c) (e : Stop) : require c e = .error e := if_neg h

theorem needValue_eq_ok {α : Type} {r : Reg} {x : Option α} {v : α} : needValue r x = .ok v ↔ x = some v := by
  cases x <;> simp [needValue, refuse]

theorem encodeField_eq_ok {fld : ErrField} {v w : Nat} {t : List Byte} :
    encodeField fld v w = .ok t ↔ v < 16 ^ w ∧ t = hexDigits w v := by
  unfold encodeField encU
  by_cases h : 16 ^ w ≤ v
  · simp [h, raise]
  · simp [h, Nat.lt_of_not_le h, eq_comm]

theorem encodeField_overflow {v w : Nat} (fld : ErrField) (h : 16 ^ w ≤ v) :
    encodeField fld v w = .error (.raise (.fieldOverflow fld)) := by
  simp [encodeField, encU, h, raise]

theorem decodeField_eq_ok {fld : ErrField} {t : List Byte} {v : Nat} :
    decodeField fld t = .ok v ↔ decU t = some v := by
  unfold decodeField
  cases decU t <;> simp [raise]

theorem decodeField_malformed {t : List Byte} (fld : ErrField) (h : decU t = none) :
    decodeField fld t = .error (.raise (.malformedHex fld)) := by
  simp [decodeField, h, raise]

/-- The input string, when `IB` holds it and it is no longer than `L_MAX`. -/
theorem input_eq_ok {s : State} {t : List Byte} :
    s.input = .ok t ↔ s.ilen ≤ Config.lMax ∧ s.ib.readString 0 s.ilen = some t := by
  unfold State.input
  split
  · cases h : s.ib.readString 0 s.ilen <;> simp_all [refuse]
  · simp_all [refuse]

theorem readString_length {m : Memory} {a n : Nat} {t : List Byte} (h : m.readString a n = some t) :
    t.length = n := by
  induction n generalizing a t with
  | zero => simp only [Memory.readString, Option.some.injEq] at h; simp [← h]
  | succ n ih =>
    simp only [Memory.readString] at h
    split at h
    · rename_i h2
      simp only [Option.some.injEq] at h
      simp [← h, ih h2]
    · exact absurd h (by simp)

theorem input_length {s : State} {t : List Byte} (h : s.input = .ok t) : t.length = s.ilen :=
  readString_length (input_eq_ok.mp h).2

theorem fixedInput_eq_ok {n : Nat} {s : State} {t : List Byte} :
    s.fixedInput n = .ok t ↔ s.ilen = n ∧ s.input = .ok t := by
  unfold State.fixedInput
  split <;> simp_all [refuse]

/-- A command has made its checks and written its results, or it stopped: an error is taken, or it is refused. -/
theorem finish_eq_next {α : Type} {s0 t : State} {x : Except Stop α} {k : α → State} :
    finish s0 x k = .next t ↔
      (∃ a, x = .ok a ∧ t = k a) ∨ ∃ e, x = .error e ∧ t = e.after s0 := by
  unfold finish
  cases x <;> simp [eq_comm]

@[simp] theorem finish_ok {α : Type} (s0 : State) (a : α) (k : α → State) :
    finish s0 (.ok a) k = .next (k a) := rfl

@[simp] theorem finish_error {α : Type} (s0 : State) (e : Stop) (k : α → State) :
    finish s0 (.error e) k = .next (e.after s0) := rfl

@[simp] theorem after_raise (s0 : State) (e : CodecError) : (Stop.raise e).after s0 = s0.fail e := rfl

@[simp] theorem after_refuse (s0 : State) (r : RefusalReason) : (Stop.refuse r).after s0 = s0.refused r := rfl

end Sys2Proof.Machine
end

