-- ==== Sys2Proof/Laws/Tables.lean ====
section
/-! SUPPORT. The laws of the tag tables, of the registry's lookup, and of the map between variants and instructions. -/

namespace Sys2Proof

@[simp] theorem TagTable.get_ofFn {α : Type} (f : Tag → α) (t : Tag) : (TagTable.ofFn f).get t = f t := by
  cases t <;> rfl

theorem Tag.mem_all (t : Tag) : t ∈ Tag.all := by cases t <;> decide

@[simp] theorem Instr.variant_instr (t : Tag) (op : MsgOp) : (t.instr op).variant = some (t, op) := by
  cases t <;> rfl

theorem encode_instr (r : Registry) (t : Tag) (op : MsgOp) : encode r (t.instr op) = encodeVariant r t op := by
  cases t <;> rfl

theorem Instr.eq_instr_of_variant {i : Instr} {t : Tag} {op : MsgOp} (h : i.variant = some (t, op)) :
    i = t.instr op := by
  cases i <;> simp only [Instr.variant, Option.some.injEq, Prod.mk.injEq, reduceCtorEq] at h <;>
    obtain ⟨rfl, rfl⟩ := h <;> rfl

/-- Every instruction is a command or a variant. -/
theorem Instr.command_or_variant (i : Instr) : i.variant = none ∨ ∃ (t : Tag) (op : MsgOp), i = t.instr op := by
  cases h : i.variant with
  | none => exact .inl rfl
  | some p => exact .inr ⟨p.1, p.2, Instr.eq_instr_of_variant h⟩

/-- What lookup finds has the code. -/
theorem Registry.get_of_lookup {r : Registry} {c : BitVec 16} {t : Tag} (h : r.lookup c = some t) : r.get t = c := by
  have := List.find?_some h
  simpa using this

theorem Registry.lookup_eq_none {r : Registry} {c : BitVec 16} : r.lookup c = none ↔ ∀ t, r.get t ≠ c := by
  simp only [Registry.lookup, List.find?_eq_none, beq_iff_eq]
  exact ⟨fun h t => h t (Tag.mem_all t), fun h t _ => h t⟩

/-- The codes of a registry are unique (42_registry.md R150). -/
theorem Registry.wf_injective {r : Registry} (h : r.wf = true) {t u : Tag} (e : r.get t = r.get u) : t = u := by
  simp only [Registry.wf, List.all_eq_true, Bool.and_eq_true, Bool.or_eq_true, bne_iff_ne, beq_iff_eq] at h
  rcases (h t (Tag.mem_all t)).2 u (Tag.mem_all u) with h | h
  · exact absurd e h
  · exact h

theorem Registry.wf_not_ffff {r : Registry} (h : r.wf = true) (t : Tag) : r.get t ≠ 0xFFFF := by
  simp only [Registry.wf, List.all_eq_true, Bool.and_eq_true, bne_iff_ne] at h
  exact (h t (Tag.mem_all t)).1

/-- `lookup(c)` in a registry (42_registry.md R150). -/
theorem Registry.lookup_eq_some {r : Registry} (h : r.wf = true) {c : BitVec 16} {t : Tag} :
    r.lookup c = some t ↔ r.get t = c := by
  constructor
  · exact Registry.get_of_lookup
  · rintro rfl
    cases hl : r.lookup (r.get t) with
    | none => exact absurd rfl (Registry.lookup_eq_none.mp hl t)
    | some u => rw [Registry.wf_injective h (Registry.get_of_lookup hl)]

end Sys2Proof
end

