-- ==== Sys2Proof/Laws/Grammar.lean ====
section
/-! SUPPORT. What the grammar engine and the frame splitter can do (43_framing.md R171, R176, R177). -/

namespace Sys2Proof.Machine

/-- `decU` of a group of hex digits cannot fail (43_framing.md R176). -/
theorem decWord_isSome {s : List Byte} (h0 : s ≠ []) (h : allHex s = true) :
    decWord s = some (BitVec.ofNat 64 (hexValue s)) := by
  simp [decWord, decU_of_allHex h0 h]

theorem Kind.width_pos (k : Kind) : 0 < k.width := by
  cases k with
  | u w => cases w <;> decide
  | _ => decide

/-- What one encoded field is as long as. -/
theorem encKind_length {j : Nat} {k : Kind} {v : Word} {t : List Byte} (h : encKind j k v = .ok t) :
    t.length = k.width := by
  cases k with
  | bool =>
    simp only [encKind] at h
    split at h
    · cases h; rfl
    · split at h
      · cases h; rfl
      · simp [refuse] at h
  | _ => simp only [encKind, encodeField_eq_ok] at h; simp [h.2, Kind.width]

/-- The fields of a payload rendered are as long as their widths together (43_framing.md R177). -/
theorem render_length {j : Nat} {ks : List Kind} {fs : List (Option Word)} {t : List Byte}
    (h : render j ks fs = .ok t) : t.length = (ks.map Kind.width).sum := by
  induction ks generalizing j fs t with
  | nil => simp only [render, Except.ok.injEq] at h; simp [← h]
  | cons k ks ih =>
    match fs with
    | [] => simp [render, refuse] at h
    | none :: fs => simp [render, refuse] at h
    | some v :: fs =>
      simp only [render, bind_eq_ok, pure_eq_ok, Except.ok.injEq] at h
      obtain ⟨a, ha, rest, hr, rfl⟩ := h
      simp [encKind_length ha, ih hr]

/-- There are as many values as fields. -/
theorem extract_length {ks : List Kind} {p : List Byte} {fs : List Word} (h : extract ks p = some fs) :
    fs.length = ks.length := by
  induction ks generalizing p fs with
  | nil => simp only [extract, Option.some.injEq] at h; simp [← h]
  | cons k ks ih =>
    simp only [extract] at h
    split at h
    · rename_i h2
      simp only [Option.some.injEq] at h
      simp [← h, ih h2]
    · exact absurd h (by simp)

/-- A payload that matches (43_framing.md R176). -/
theorem matchPayload_eq_ok {g : Grammar} {c : BitVec 16} {p : List Byte} {m : Option Word} {fs : List Word} :
    matchPayload g c p = .ok (m, fs) ↔
      p.length = g.explen ∧ allHex p = true ∧ m = (macGroup g p).1 ∧ extract g.fields (macGroup g p).2 = some fs := by
  unfold matchPayload
  by_cases h1 : p.length = g.explen
  · cases h2 : allHex p with
    | false => simp [raise]
    | true => cases h3 : extract g.fields (macGroup g p).2 <;> simp [h1, refuse, eq_comm]
  · simp [h1, raise]

/-- A payload that does not match (43_framing.md R176, 60_exceptions.md R263). -/
theorem matchPayload_mismatch {g : Grammar} {p : List Byte} (c : BitVec 16)
    (h : p.length ≠ g.explen ∨ allHex p = false) :
    matchPayload g c p = .error (.raise (.payloadMismatch c g.pattern p)) := by
  simp only [matchPayload, if_pos h, raise]

/-- Dispatch gives the grammar of the row, of a variant that is not outbound only (42_registry.md R153). -/
theorem dispatchTag_eq_ok {vt : VariantTable} {t : Tag} {c : BitVec 16} {g : Grammar} :
    dispatchTag vt t c = .ok g ↔ (vt.get t).dir ≠ some .tx ∧ (vt.get t).grammar = some g := by
  unfold dispatchTag
  split
  · simp_all [raise]
  · cases h : (vt.get t).grammar <;> simp_all [refuse]

theorem dispatch_eq_ok {r : Registry} {vt : VariantTable} {c : BitVec 16} {t : Tag} {g : Grammar} :
    dispatch r vt c = .ok (t, g) ↔ r.lookup c = some t ∧ dispatchTag vt t c = .ok g := by
  unfold dispatch
  cases h : r.lookup c with
  | none => simp [raise]
  | some u =>
    simp only [bind_eq_ok, pure_eq_ok, Except.ok.injEq, Prod.mk.injEq, Option.some.injEq]
    constructor
    · rintro ⟨g', h1, rfl, rfl⟩
      exact ⟨rfl, h1⟩
    · rintro ⟨rfl, h1⟩
      exact ⟨g, h1, rfl, rfl⟩

theorem selectOnly_eq_ok {r : Registry} {vt : VariantTable} {c : BitVec 16} {t u : Tag} {g : Grammar} :
    selectOnly r vt t c = .ok (u, g) ↔ c = r.get t ∧ u = t ∧ dispatchTag vt t c = .ok g := by
  simp only [selectOnly, bind_eq_ok, require_eq_ok, pure_eq_ok, Except.ok.injEq, Prod.mk.injEq]
  constructor
  · rintro ⟨_, h1, g', h2, rfl, rfl⟩
    exact ⟨h1, rfl, h2⟩
  · rintro ⟨h1, rfl, h2⟩
    exact ⟨(), h1, g, h2, rfl, rfl⟩

/-- A frame that passes every check but the checksum's own (43_framing.md R171). -/
theorem splitFrame_eq_ok {select : BitVec 16 → Except Stop (Tag × Grammar)} {n : Nat} {s : List Byte}
    {m : InboundFrame} :
    splitFrame select n s = .ok m ↔
      12 ≤ s.length ∧
        ∃ c q r g, decU (s.take 4) = some c ∧ select (BitVec.ofNat 16 c) = .ok (m.tag, g) ∧
          decU ((s.drop 4).take 4) = some q ∧
          matchPayload g (BitVec.ofNat 16 c) ((s.drop 8).take (s.length - 12)) = .ok (m.mac, m.fields) ∧
          m.fields.length ≤ n ∧ decU (s.drop (s.length - 4)) = some r ∧
          m.code = BitVec.ofNat 16 c ∧ m.seq = BitVec.ofNat 16 q ∧ m.sum = BitVec.ofNat 16 r ∧
          m.body = s.take (s.length - 4) := by
  simp only [splitFrame, bind_eq_ok, require_eq_ok, decodeField_eq_ok, pure_eq_ok, Except.ok.injEq]
  constructor
  · rintro ⟨-, -, c, hc, ⟨t, g⟩, hg, -, -, q, hq, -, h12, ⟨mac, fs⟩, hm, -, hn, r, hr, rfl⟩
    exact ⟨h12, c, q, r, g, hc, hg, hq, hm, hn, hr, rfl, rfl, rfl, rfl⟩
  · rintro ⟨h12, c, q, r, g, hc, hg, hq, hm, hn, hr, h1, h2, h3, h4⟩
    refine ⟨(), by omega, c, hc, (m.tag, g), hg, (), by omega, q, hq, (), h12, (m.mac, m.fields), hm, (), hn, r, hr, ?_⟩
    cases m
    simp_all

end Sys2Proof.Machine
end

