-- ==== Sys2Proof/Laws/Exec.lean ====
section
/-! SUPPORT. What a command can do, said once: the states in which one ends (`Ends`), and the lemma that every
instruction that gives a next state ends in one of them (`exec_ends`). -/

namespace Sys2Proof.Machine

@[simp] theorem exec_instr (t : Tag) (op : MsgOp) (s : State) : exec (t.instr op) s = execVariant t op s := by
  cases t <;> rfl

/-- The states a command can end in, begun in `s`. -/
inductive Ends (s : State) : State → Prop where
  /-- An error is taken. -/
  | failed (k : Kept) (e : CodecError) : Ends s ((s.start k).fail e)
  /-- An error is taken in encoding a message as one of variant `t`. -/
  | failedAs (t : Tag) (e : CodecError) : Ends s (((s.asVariant t).start .ofMessage).fail e)
  /-- The command is refused. -/
  | refused (k : Kept) (r : RefusalReason) : Ends s ((s.start k).refused r)
  /-- The encoding of a message as one of variant `t` is refused. -/
  | refusedAs (t : Tag) (r : RefusalReason) : Ends s (((s.asVariant t).start .ofMessage).refused r)
  /-- The checksum of a frame differs. -/
  | corrupted (body : List Byte) : Ends s (((s.start .nothing).checksum body).fail .checksumMismatch)
  /-- A value result. -/
  | value (v : Nat) : Ends s ((s.start .nothing).value v)
  /-- A string result of the HEX unit. -/
  | text (t : List Byte) (h : t.length ≤ 16) : Ends s ((s.start .ofVal).out t)
  /-- The result of `CRC.COMPUTE`. -/
  | sum (t : List Byte) : Ends s (((s.start .nothing).checksum t).out (crcHex t))
  /-- The result of `REG.FROMCODE`. -/
  | identified (c : BitVec 16) (t : Tag) (h : s.reg.lookup c = some t) :
      Ends s { s.start .nothing with tag := some t, code := some c, st := .parsed }
  /-- The result of `REG.TOCODE`. -/
  | typeCode (t : Tag) (h : s.tag = some t) :
      Ends s { (s.start .ofTag).out (hex16 (s.reg.get t)) with code := some (s.reg.get t) }
  /-- An outbound frame. -/
  | frame (body : List Byte) (h : body.length + 4 ≤ Config.lMax) :
      Ends s (((s.start .ofMessage).checksum body).out (withCrc body))
  /-- An outbound frame of a message encoded as one of variant `t`. -/
  | frameAs (t : Tag) (body : List Byte) (h : body.length + 4 ≤ Config.lMax) :
      Ends s ((((s.asVariant t).start .ofMessage).checksum body).out (withCrc body))
  /-- A message parsed from a frame. -/
  | parsed (m : InboundFrame) (hc : m.code = s.reg.get m.tag) (hf : m.fields.length ≤ s.f.length)
      (hs : m.sum = crc16 m.body) :
      Ends s (((s.start .nothing).checksum m.body).message m.tag m.code (some m.seq) m.mac m.fields)
  /-- A message decoded from a payload. -/
  | decoded (t : Tag) (m : Option Word) (fs : List Word) (hf : fs.length ≤ s.f.length) :
      Ends s ((s.start .ofSeq).message t (s.reg.get t) s.seq m fs)

theorem Ends.stop {s : State} (k : Kept) (e : Stop) : Ends s (e.after (s.start k)) := by
  cases e with
  | raise e => exact .failed k e
  | refuse r => exact .refused k r

theorem Ends.stopAs {s : State} (t : Tag) (e : Stop) : Ends s (e.after ((s.asVariant t).start .ofMessage)) := by
  cases e with
  | raise e => exact .failedAs t e
  | refuse r => exact .refusedAs t r

theorem hexEncode_ends {n : Nat} (hn : n ≤ 16) {pick : Word → Nat} {s t : State}
    (h : hexEncode n pick s = .next t) : Ends s t := by
  rcases finish_eq_next.mp h with ⟨a, ha, rfl⟩ | ⟨e, -, rfl⟩
  · obtain ⟨v, -, hv⟩ := bind_eq_ok.mp ha
    refine .text a ?_
    rw [(encodeField_eq_ok.mp hv).2, hexDigits_length]
    exact hn
  · exact .stop _ e

theorem hexDecode_ends {n : Nat} {s t : State} (h : hexDecode n s = .next t) : Ends s t := by
  rcases finish_eq_next.mp h with ⟨a, -, rfl⟩ | ⟨e, -, rfl⟩
  · exact .value a
  · exact .stop _ e

theorem frameBody_fits {t : Tag} {s : State} {body : List Byte} (h : frameBody t s = .ok body) :
    body.length + 4 ≤ Config.lMax := by
  unfold frameBody at h
  split at h
  · simp [refuse] at h
  · simp only [bind_eq_ok, require_eq_ok, pure_eq_ok, Except.ok.injEq] at h
    obtain ⟨_, _, _, _, _, hl, rfl⟩ := h
    exact hl

theorem parseFrame_ends {select : BitVec 16 → Except Stop (Tag × Grammar)} {s t : State}
    (hsel : ∀ c u g, select c = .ok (u, g) → c = s.reg.get u)
    (h : parseFrame select s = .next t) : Ends s t := by
  rcases finish_eq_next.mp h with ⟨m, hm, rfl⟩ | ⟨e, -, rfl⟩
  · obtain ⟨x, -, hx⟩ := bind_eq_ok.mp hm
    obtain ⟨-, c, q, r, g, -, hg, -, -, hn, -, hc, -⟩ := splitFrame_eq_ok.mp hx
    unfold verify
    split
    · rename_i hs
      exact .parsed m (hc.trans (hsel _ _ _ hg)) hn hs
    · exact .corrupted m.body
  · exact .stop _ e

theorem matchMessage_eq_ok {g : Grammar} {c : BitVec 16} {n : Nat} {p : List Byte} {m : Option Word}
    {fs : List Word} :
    matchMessage g c n p = .ok (m, fs) ↔ matchPayload g c p = .ok (m, fs) ∧ fs.length ≤ n := by
  simp only [matchMessage, bind_eq_ok, require_eq_ok, pure_eq_ok, Except.ok.injEq, Prod.mk.injEq, Prod.exists]
  constructor
  · rintro ⟨m', fs', h, -, hn, rfl, rfl⟩
    exact ⟨h, hn⟩
  · rintro ⟨h, hn⟩
    exact ⟨m, fs, h, (), hn, rfl, rfl⟩

theorem execVariant_ends {t : Tag} {op : MsgOp} {s s' : State} (h : execVariant t op s = .next s') : Ends s s' := by
  cases op with
  | encode =>
    rcases finish_eq_next.mp (show finish _ _ _ = _ from h) with ⟨body, hb, rfl⟩ | ⟨e, -, rfl⟩
    · exact .frameAs t body (frameBody_fits hb)
    · exact .stopAs t e
  | parse =>
    refine parseFrame_ends (fun c u g hc => ?_) h
    obtain ⟨h1, rfl, -⟩ := selectOnly_eq_ok.mp hc
    exact h1
  | decode =>
    rcases finish_eq_next.mp (show finish _ _ _ = _ from h) with ⟨⟨m, fs⟩, hm, rfl⟩ | ⟨e, -, rfl⟩
    · obtain ⟨p, -, hm⟩ := bind_eq_ok.mp hm
      obtain ⟨g, -, hm⟩ := bind_eq_ok.mp hm
      exact .decoded t m fs (matchMessage_eq_ok.mp hm).2
    · exact .stop _ e

/-- Every instruction that gives a next state ends in one of the states of `Ends`. -/
theorem exec_ends {i : Instr} {s t : State} (h : exec i s = .next t) : Ends s t := by
  rcases i.command_or_variant with hi | ⟨u, op, rfl⟩
  · cases i
    case hexEncu =>
      rcases finish_eq_next.mp (show finish _ _ _ = _ from h) with ⟨a, ha, rfl⟩ | ⟨e, -, rfl⟩
      · obtain ⟨v, -, ha⟩ := bind_eq_ok.mp ha
        obtain ⟨w, -, ha⟩ := bind_eq_ok.mp ha
        obtain ⟨_, hw, ha⟩ := bind_eq_ok.mp ha
        refine .text a ?_
        rw [(encodeField_eq_ok.mp ha).2, hexDigits_length]
        exact (require_eq_ok.mp hw).2
      · exact .stop _ e
    case hexDecu =>
      rcases finish_eq_next.mp (show finish _ _ _ = _ from h) with ⟨a, -, rfl⟩ | ⟨e, -, rfl⟩
      · exact .value a
      · exact .stop _ e
    case hexEncf32 => exact hexEncode_ends (by decide) h
    case hexDecf32 => exact hexDecode_ends h
    case hexEncds => exact hexEncode_ends (by decide) h
    case hexDecds => exact hexDecode_ends h
    case hexEncdm => exact hexEncode_ends (by decide) h
    case hexDecdm => exact hexDecode_ends h
    case hexEncmac => exact hexEncode_ends (by decide) h
    case hexDecmac => exact hexDecode_ends h
    case crcCompute =>
      rcases finish_eq_next.mp (show finish _ _ _ = _ from h) with ⟨a, -, rfl⟩ | ⟨e, -, rfl⟩
      · exact .sum a
      · exact .stop _ e
    case regFromcode =>
      rcases finish_eq_next.mp (show finish _ _ _ = _ from h) with ⟨c, -, rfl⟩ | ⟨e, -, rfl⟩
      · unfold identify
        split
        · exact .failed _ _
        · rename_i u hu
          exact .identified _ u hu
      · exact .stop _ e
    case regTocode =>
      rcases finish_eq_next.mp (show finish _ _ _ = _ from h) with ⟨u, hu, rfl⟩ | ⟨e, -, rfl⟩
      · exact .typeCode u (needValue_eq_ok.mp hu)
      · exact .stop _ e
    case frmEncode =>
      rcases finish_eq_next.mp (show finish _ _ _ = _ from h) with ⟨body, hb, rfl⟩ | ⟨e, -, rfl⟩
      · obtain ⟨t, -, hb⟩ := bind_eq_ok.mp hb
        exact .frame body (frameBody_fits hb)
      · exact .stop _ e
    case frmParse =>
      refine parseFrame_ends (fun c u g hc => ?_) h
      exact (Registry.get_of_lookup (dispatch_eq_ok.mp hc).1).symm
    case msgDecode =>
      rcases finish_eq_next.mp (show finish _ _ _ = _ from h) with ⟨⟨u, c, m, fs⟩, hm, rfl⟩ | ⟨e, -, rfl⟩
      · obtain ⟨-, -, hm⟩ := bind_eq_ok.mp hm
        obtain ⟨x, -, hm⟩ := bind_eq_ok.mp hm
        obtain ⟨d, -, hm⟩ := bind_eq_ok.mp hm
        obtain ⟨⟨t, g⟩, hg, hm⟩ := bind_eq_ok.mp hm
        obtain ⟨⟨m', fs'⟩, hf, hm⟩ := bind_eq_ok.mp hm
        simp only [pure_eq_ok, Except.ok.injEq, Prod.mk.injEq] at hm
        obtain ⟨rfl, rfl, rfl, rfl⟩ := hm
        have hl := Registry.get_of_lookup (dispatch_eq_ok.mp hg).1
        simp only
        rw [← hl]
        exact .decoded _ _ _ (matchMessage_eq_ok.mp hf).2
      · exact .stop _ e
    all_goals exact absurd hi (by simp [Instr.variant])
  · rw [exec_instr] at h
    exact execVariant_ends h

end Sys2Proof.Machine
end

