-- ==== Sys2Proof/Laws/PerInstr.lean ====
section
/-! SUPPORT. Statements made once per instruction. `CommandCode`: the word of an instruction begins with a 4-bit command
code and is one character, or that and a type field of four (30_encoding.md R71, R90; log 10). -/

namespace Sys2Proof.Laws.CommandCode

/-- The word begins with a command code, and nothing or four characters follow. -/
def Statement (i : Instr) : Prop :=
  ∀ r : Registry, ∃ b rest, encode r i = b :: rest ∧ b.toNat < 16 ∧ (rest = [] ∨ rest.length = 4)

theorem of_command {i : Instr} {b : Byte} (hb : b.toNat < 16) (h : ∀ r, encode r i = [b]) : Statement i :=
  fun r => ⟨b, [], h r, hb, .inl rfl⟩

theorem of_variant (t : Tag) (op : MsgOp) : Statement (t.instr op) := fun r =>
  ⟨op.code, hex16 (r.get t), encode_instr r t op, by cases op <;> decide, .inr (by simp)⟩

theorem hexEncu : Statement .hexEncu := of_command (by decide) fun _ => rfl
theorem hexDecu : Statement .hexDecu := of_command (by decide) fun _ => rfl
theorem hexEncf32 : Statement .hexEncf32 := of_command (by decide) fun _ => rfl
theorem hexDecf32 : Statement .hexDecf32 := of_command (by decide) fun _ => rfl
theorem hexEncds : Statement .hexEncds := of_command (by decide) fun _ => rfl
theorem hexDecds : Statement .hexDecds := of_command (by decide) fun _ => rfl
theorem hexEncdm : Statement .hexEncdm := of_command (by decide) fun _ => rfl
theorem hexDecdm : Statement .hexDecdm := of_command (by decide) fun _ => rfl
theorem hexEncmac : Statement .hexEncmac := of_command (by decide) fun _ => rfl
theorem hexDecmac : Statement .hexDecmac := of_command (by decide) fun _ => rfl
theorem crcCompute : Statement .crcCompute := of_command (by decide) fun _ => rfl
theorem regFromcode : Statement .regFromcode := of_command (by decide) fun _ => rfl
theorem regTocode : Statement .regTocode := of_command (by decide) fun _ => rfl
theorem frmEncode : Statement .frmEncode := of_command (by decide) fun _ => rfl
theorem frmParse : Statement .frmParse := of_command (by decide) fun _ => rfl
theorem msgDecode : Statement .msgDecode := of_command (by decide) fun _ => rfl
theorem clockGetReq (op : MsgOp) : Statement (.clockGetReq op) := of_variant .clockGetReq op
theorem clockGetResp (op : MsgOp) : Statement (.clockGetResp op) := of_variant .clockGetResp op
theorem deviceInfoReq (op : MsgOp) : Statement (.deviceInfoReq op) := of_variant .deviceInfoReq op
theorem deviceInfoResp (op : MsgOp) : Statement (.deviceInfoResp op) := of_variant .deviceInfoResp op
theorem lightCalibrationReq (op : MsgOp) : Statement (.lightCalibrationReq op) := of_variant .lightCalibrationReq op
theorem moduleJoinedNetworkReq (op : MsgOp) : Statement (.moduleJoinedNetworkReq op) := of_variant .moduleJoinedNetworkReq op
theorem networkResetReq (op : MsgOp) : Statement (.networkResetReq op) := of_variant .networkResetReq op
theorem networkStatusReq (op : MsgOp) : Statement (.networkStatusReq op) := of_variant .networkStatusReq op
theorem nodeAvailableReq (op : MsgOp) : Statement (.nodeAvailableReq op) := of_variant .nodeAvailableReq op
theorem nodeAvailableResp (op : MsgOp) : Statement (.nodeAvailableResp op) := of_variant .nodeAvailableResp op
theorem pingReq (op : MsgOp) : Statement (.pingReq op) := of_variant .pingReq op
theorem powerBufferReq (op : MsgOp) : Statement (.powerBufferReq op) := of_variant .powerBufferReq op
theorem powerCalibrationReq (op : MsgOp) : Statement (.powerCalibrationReq op) := of_variant .powerCalibrationReq op
theorem powerCalibrationResp (op : MsgOp) : Statement (.powerCalibrationResp op) := of_variant .powerCalibrationResp op
theorem powerChangeReq (op : MsgOp) : Statement (.powerChangeReq op) := of_variant .powerChangeReq op
theorem powerInfoReq (op : MsgOp) : Statement (.powerInfoReq op) := of_variant .powerInfoReq op
theorem powerInfoResp (op : MsgOp) : Statement (.powerInfoResp op) := of_variant .powerInfoResp op
theorem powerLogIntervalSetReq (op : MsgOp) : Statement (.powerLogIntervalSetReq op) := of_variant .powerLogIntervalSetReq op
theorem rtcGetReq (op : MsgOp) : Statement (.rtcGetReq op) := of_variant .rtcGetReq op
theorem roleCallReq (op : MsgOp) : Statement (.roleCallReq op) := of_variant .roleCallReq op
theorem senseReportReq (op : MsgOp) : Statement (.senseReportReq op) := of_variant .senseReportReq op
theorem sleepSetReq (op : MsgOp) : Statement (.sleepSetReq op) := of_variant .sleepSetReq op
theorem broadcastGroupSwitchResp (op : MsgOp) : Statement (.broadcastGroupSwitchResp op) := of_variant .broadcastGroupSwitchResp op

end Sys2Proof.Laws.CommandCode
end

