-- ==== Sys2Proof/Machine/Asm.lean ====
section
/-! DEFINITION. The textual notation of the spec (30_encoding.md R91): a command as one line, a result after "->", an error
after "-> !". It is notation only (D25): nothing of the machine reads it. Values are written in decimal, as R91 allows; the
fields of a message are separated by spaces, as in 95_test_vectors.md (log 21). -/

namespace Sys2Proof

/-- The tag of a variant (30_encoding.md R80). -/
def Tag.text : Tag → String
  | .clockGetReq => "CLOCK_GET_REQ"
  | .clockGetResp => "CLOCK_GET_RESP"
  | .deviceInfoReq => "DEVICE_INFO_REQ"
  | .deviceInfoResp => "DEVICE_INFO_RESP"
  | .lightCalibrationReq => "LIGHT_CALIBRATION_REQ"
  | .moduleJoinedNetworkReq => "MODULE_JOINED_NETWORK_REQ"
  | .networkResetReq => "NETWORK_RESET_REQ"
  | .networkStatusReq => "NETWORK_STATUS_REQ"
  | .nodeAvailableReq => "NODE_AVAILABLE_REQ"
  | .nodeAvailableResp => "NODE_AVAILABLE_RESP"
  | .pingReq => "PING_REQ"
  | .powerBufferReq => "POWER_BUFFER_REQ"
  | .powerCalibrationReq => "POWER_CALIBRATION_REQ"
  | .powerCalibrationResp => "POWER_CALIBRATION_RESP"
  | .powerChangeReq => "POWER_CHANGE_REQ"
  | .powerInfoReq => "POWER_INFO_REQ"
  | .powerInfoResp => "POWER_INFO_RESP"
  | .powerLogIntervalSetReq => "POWER_LOG_INTERVAL_SET_REQ"
  | .rtcGetReq => "RTC_GET_REQ"
  | .roleCallReq => "ROLE_CALL_REQ"
  | .senseReportReq => "SENSE_REPORT_REQ"
  | .sleepSetReq => "SLEEP_SET_REQ"
  | .broadcastGroupSwitchResp => "BROADCAST_GROUP_SWITCH_RESP"

/-- A string of characters as text. -/
def plainText (s : List Byte) : String := String.ofList (s.map (fun c => Char.ofNat c.toNat))

/-- A string operand or result, in double quotes. -/
def quotedText (s : List Byte) : String := "\"" ++ plainText s ++ "\""

/-- A number of `w` hex digits. -/
def hexText (w v : Nat) : String := "0x" ++ plainText (hexDigits w v)

/-- The name of a command or variant (30_encoding.md R90, R80). -/
def Instr.mnemonic (i : Instr) : String :=
  match i with
  | .hexEncu => "HEX.ENCU"
  | .hexDecu => "HEX.DECU"
  | .hexEncf32 => "HEX.ENCF32"
  | .hexDecf32 => "HEX.DECF32"
  | .hexEncds => "HEX.ENCDS"
  | .hexDecds => "HEX.DECDS"
  | .hexEncdm => "HEX.ENCDM"
  | .hexDecdm => "HEX.DECDM"
  | .hexEncmac => "HEX.ENCMAC"
  | .hexDecmac => "HEX.DECMAC"
  | .crcCompute => "CRC.COMPUTE"
  | .regFromcode => "REG.FROMCODE"
  | .regTocode => "REG.TOCODE"
  | .frmEncode => "FRM.ENCODE"
  | .frmParse => "FRM.PARSE"
  | .msgDecode => "MSG.DECODE"
  | .clockGetReq _ => Tag.clockGetReq.text
  | .clockGetResp _ => Tag.clockGetResp.text
  | .deviceInfoReq _ => Tag.deviceInfoReq.text
  | .deviceInfoResp _ => Tag.deviceInfoResp.text
  | .lightCalibrationReq _ => Tag.lightCalibrationReq.text
  | .moduleJoinedNetworkReq _ => Tag.moduleJoinedNetworkReq.text
  | .networkResetReq _ => Tag.networkResetReq.text
  | .networkStatusReq _ => Tag.networkStatusReq.text
  | .nodeAvailableReq _ => Tag.nodeAvailableReq.text
  | .nodeAvailableResp _ => Tag.nodeAvailableResp.text
  | .pingReq _ => Tag.pingReq.text
  | .powerBufferReq _ => Tag.powerBufferReq.text
  | .powerCalibrationReq _ => Tag.powerCalibrationReq.text
  | .powerCalibrationResp _ => Tag.powerCalibrationResp.text
  | .powerChangeReq _ => Tag.powerChangeReq.text
  | .powerInfoReq _ => Tag.powerInfoReq.text
  | .powerInfoResp _ => Tag.powerInfoResp.text
  | .powerLogIntervalSetReq _ => Tag.powerLogIntervalSetReq.text
  | .rtcGetReq _ => Tag.rtcGetReq.text
  | .roleCallReq _ => Tag.roleCallReq.text
  | .senseReportReq _ => Tag.senseReportReq.text
  | .sleepSetReq _ => Tag.sleepSetReq.text
  | .broadcastGroupSwitchResp _ => Tag.broadcastGroupSwitchResp.text

end Sys2Proof

namespace Sys2Proof.Machine

/-- A field name of 44_payload_grammars.md. -/
def FieldName.text : FieldName → String
  | .logAddress => "logAddress"
  | .gainA => "gainA"
  | .gainB => "gainB"
  | .offsetTotal => "offsetTotal"
  | .offsetNoise => "offsetNoise"
  | .powerState => "powerState"
  | .oneSecondPulses => "oneSecondPulses"
  | .eightSecondPulses => "eightSecondPulses"
  | .oneHourConsumedPulses => "oneHourConsumedPulses"
  | .oneHourProducedPulses => "oneHourProducedPulses"
  | .secondsCorrectionRaw => "secondsCorrectionRaw"
  | .nodeId => "nodeId"
  | .humidityRaw => "humidityRaw"
  | .temperatureRaw => "temperatureRaw"
  | .portMask => "portMask"

/-- The fields that hold a value, each as ` name=value`; a field the document does not name is written by its register. -/
def fieldsText (j : Nat) : List FieldName → List (Option Word) → String
  | _, [] => ""
  | [], none :: fs => fieldsText (j + 1) [] fs
  | [], some v :: fs => " F[" ++ Nat.repr j ++ "]=" ++ Nat.repr v.toNat ++ fieldsText (j + 1) [] fs
  | _ :: ns, none :: fs => fieldsText (j + 1) ns fs
  | n :: ns, some v :: fs => " " ++ n.text ++ "=" ++ Nat.repr v.toNat ++ fieldsText (j + 1) ns fs

/-- A message: its tag, then the sequence number, the MAC and the fields it has. -/
def messageText (t : Tag) (q : Option (BitVec 16)) (m : Option Word) (fs : List (Option Word)) : String :=
  t.text ++
    (match q with
      | some q => " seq=" ++ hexText 4 q.toNat
      | none => "") ++
    (match m with
      | some m => " mac=" ++ hexText 16 m.toNat
      | none => "") ++ fieldsText 0 (fieldNames t) fs

/-- The line of a command with the operands given; none where the input record lacks one. -/
def lineText (i : Instr) (x : Option String) : Option String := x.map (fun x => i.mnemonic ++ " " ++ x)

/-- The operands of a line of `MSG.DECODE`. -/
def decodeText (c : List Byte) (q : Option (BitVec 16)) (p : List Byte) : String :=
  quotedText c ++ ", seq=" ++
    (match q with
      | some q => hexText 4 q.toNat
      | none => "none") ++ ", " ++ quotedText p

/-- A form of a variant is written as the command of the FRAME unit that it is a form of (log 10). -/
def variantText (r : Registry) (t : Tag) (op : MsgOp) (o : Operands) : Option String :=
  match op with
  | .encode => lineText .frmEncode (some (messageText t o.seq o.mac o.fields))
  | .parse => lineText .frmParse (some (quotedText o.ib))
  | .decode => lineText .msgDecode (some (decodeText (hex16 (r.get t)) o.seq o.ib))

/-- One command line; nothing where the input record lacks an operand of the command. -/
def commandText (r : Registry) (i : Instr) (o : Operands) : Option String :=
  match i with
  | .hexEncu =>
    lineText i
      (match o.val, o.w with
        | some v, some w => some (Nat.repr v.toNat ++ ", " ++ Nat.repr w.toNat)
        | _, _ => none)
  | .hexDecu => lineText i (some (quotedText o.ib))
  | .hexEncf32 => lineText i (o.val.map (fun v => hexText 8 (v.setWidth 32).toNat))
  | .hexDecf32 => lineText i (some (quotedText o.ib))
  | .hexEncds => lineText i (o.val.map (fun v => Nat.repr v.toNat))
  | .hexDecds => lineText i (some (quotedText o.ib))
  | .hexEncdm => lineText i (o.val.map (fun v => Nat.repr v.toNat))
  | .hexDecdm => lineText i (some (quotedText o.ib))
  | .hexEncmac => lineText i (o.val.map (fun v => hexText 16 v.toNat))
  | .hexDecmac => lineText i (some (quotedText o.ib))
  | .crcCompute => lineText i (some (quotedText o.ib))
  | .regFromcode => lineText i (some (quotedText o.ib))
  | .regTocode => lineText i (o.tag.map Tag.text)
  | .frmEncode => lineText i (o.tag.map (fun t => messageText t o.seq o.mac o.fields))
  | .frmParse => lineText i (some (quotedText o.ib))
  | .msgDecode => lineText i (some (decodeText (o.ib.take 4) o.seq (o.ib.drop 4)))
  | .clockGetReq op => variantText r .clockGetReq op o
  | .clockGetResp op => variantText r .clockGetResp op o
  | .deviceInfoReq op => variantText r .deviceInfoReq op o
  | .deviceInfoResp op => variantText r .deviceInfoResp op o
  | .lightCalibrationReq op => variantText r .lightCalibrationReq op o
  | .moduleJoinedNetworkReq op => variantText r .moduleJoinedNetworkReq op o
  | .networkResetReq op => variantText r .networkResetReq op o
  | .networkStatusReq op => variantText r .networkStatusReq op o
  | .nodeAvailableReq op => variantText r .nodeAvailableReq op o
  | .nodeAvailableResp op => variantText r .nodeAvailableResp op o
  | .pingReq op => variantText r .pingReq op o
  | .powerBufferReq op => variantText r .powerBufferReq op o
  | .powerCalibrationReq op => variantText r .powerCalibrationReq op o
  | .powerCalibrationResp op => variantText r .powerCalibrationResp op o
  | .powerChangeReq op => variantText r .powerChangeReq op o
  | .powerInfoReq op => variantText r .powerInfoReq op o
  | .powerInfoResp op => variantText r .powerInfoResp op o
  | .powerLogIntervalSetReq op => variantText r .powerLogIntervalSetReq op o
  | .rtcGetReq op => variantText r .rtcGetReq op o
  | .roleCallReq op => variantText r .roleCallReq op o
  | .senseReportReq op => variantText r .senseReportReq op o
  | .sleepSetReq op => variantText r .sleepSetReq op o
  | .broadcastGroupSwitchResp op => variantText r .broadcastGroupSwitchResp op o

/-- The field an error names. -/
def ErrField.text : ErrField → String
  | .typeCode => "TYPE"
  | .seq => "SEQ"
  | .mac => "MAC"
  | .crc => "CRC"
  | .value => "VALUE"
  | .payload j => "field " ++ Nat.repr j

/-- A pattern, its widths separated by commas (30_encoding.md R81). -/
def patternText (p : List Nat) : String := String.intercalate "," (p.map Nat.repr)

/-- `!ErrorName(info)` (30_encoding.md R91; 60_exceptions.md R260). -/
def CodecError.text : CodecError → String
  | .malformedHex f => "!MalformedHex(" ++ f.text ++ ")"
  | .fieldOverflow f => "!FieldOverflow(" ++ f.text ++ ")"
  | .payloadMismatch c p s =>
    "!PayloadMismatch(type=" ++ hexText 4 c.toNat ++ ", pattern=" ++ patternText p ++ ", payload=" ++ quotedText s ++ ")"
  | .unknownMessageType c => "!UnknownMessageType(" ++ hexText 4 c.toNat ++ ")"
  | .checksumMismatch => "!ChecksumMismatch"

/-- What the host reads after a command, in result position: the error, the string, the value, the message or tag, or
"refused" (95_test_vectors.md). -/
def State.resultText (s : State) : Option String :=
  match s.st with
  | .unparsed => s.refusal.map (fun _ => "refused")
  | .failed => s.err.map (fun e => "-> " ++ e.text)
  | .parsed =>
    if s.olen ≠ 0 then s.output.map (fun t => "-> " ++ quotedText t)
    else
      match s.val, s.tag with
      | some v, _ => some ("-> " ++ Nat.repr v.toNat)
      | none, some t => some ("-> " ++ messageText t s.seq s.mac s.f)
      | none, none => none

end Sys2Proof.Machine
end

