-- ==== Sys2Proof/Tests/Slice0.lean ====
section
/-! SUPPORT. The tests. Expected results are the spec's own, from 95_test_vectors.md (named by section and row) and from the
worked examples of the rules; the words of section 1 are written out from 30_encoding.md R90 and R80. The last part has, for
every obligation with hypotheses, one theorem that shows a state and operands meeting all of them together. -/

namespace Sys2Proof.Tests

-- The tests are checked one after the other: all at once they need more threads than the check's memory limit lets start.
set_option Elab.async false

open Sys2Proof Sys2Proof.Machine

/-- The characters of a text. -/
def str (s : String) : List Byte := s.toList.map (fun c => BitVec.ofNat 8 c.toNat)

/-- The setting of 95_test_vectors.md: the reset state, the test registry, no OPEN grammar, the least number of field
registers. -/
def base : State := { State.reset with f := List.replicate 5 none, reg := testRegistry, vt := closedTable }

/-- A grammar supplied for every OPEN variant, so that each of them can be seen to run: a MAC, a `U(2)` and a `BOOL`. -/
def suppliedGrammar : Grammar := { dir := .both, hasMac := true, fields := [.u .w2, .bool] }

/-- A variant table in which every OPEN cell is supplied. -/
def openTable : VariantTable :=
  TagTable.ofFn (variantRow (fun _ => some suppliedGrammar) (fun _ => some [.durS2, .durM4]))

/-- As `base`, with every OPEN cell supplied. -/
def baseOpen : State := { base with vt := openTable }

/-- What a command gives, in the notation of 30_encoding.md R91. -/
def textOf (x : Host.Outcome State Fault Refusal) : String :=
  match x with
  | .next t => t.resultText.getD "nothing"
  | .fault _ => "fault"
  | .refused _ => "refused"

/-- The outcome of one command from `base`. -/
def outcome (i : Instr) (o : Operands) : Host.Outcome State Fault Refusal := exec i (base.load o)

/-- The outcome of one command from `base`, as text. -/
def run (i : Instr) (o : Operands) : String := textOf (outcome i o)

/-- The outcome of a command whose operand is a string. -/
def runS (i : Instr) (s : String) : String := run i { ib := str s }

/-- The outcome of a command whose operand is a value. -/
def runV (i : Instr) (v : Word) : String := run i { val := some v }

/-- A property of the next state. -/
def gives (x : Host.Outcome State Fault Refusal) (p : State → Bool) : Bool :=
  match x with
  | .next t => p t
  | .fault _ => false
  | .refused _ => false

/-- The MAC of 95_test_vectors.md section 6. -/
def macM : Word := 0x000D6F0000B1B64B

/-! ### 1. Words -/

/-- The sixteen command words (30_encoding.md R90). -/
theorem test_commandWords :
    [[0x00], [0x01], [0x02], [0x03], [0x04], [0x05], [0x06], [0x07], [0x08], [0x09], [0x0A], [0x0B], [0x0C], [0x0D],
      [0x0E], [0x0F]].map (decode testRegistry) =
      [.ok .hexEncu, .ok .hexDecu, .ok .hexEncf32, .ok .hexDecf32, .ok .hexEncds, .ok .hexDecds, .ok .hexEncdm,
        .ok .hexDecdm, .ok .hexEncmac, .ok .hexDecmac, .ok .crcCompute, .ok .regFromcode, .ok .regTocode,
        .ok .frmEncode, .ok .frmParse, .ok .msgDecode] := by decide +kernel

/-- The 23 type fields under the test registry (93_implementation_defined.md G3), after the word of `FRM.PARSE`. -/
theorem test_variantWords :
    (["003E", "003F", "0023", "0024", "0102", "0061", "0008", "000A", "0006", "0007", "000D", "0048", "0026", "0027",
      "0017", "0012", "0013", "0057", "0029", "0018", "0105", "0050", "0056"].map
        (fun c => decode testRegistry (0x0E :: str c))) =
      [.ok (.clockGetReq .parse), .ok (.clockGetResp .parse), .ok (.deviceInfoReq .parse), .ok (.deviceInfoResp .parse),
        .ok (.lightCalibrationReq .parse), .ok (.moduleJoinedNetworkReq .parse), .ok (.networkResetReq .parse),
        .ok (.networkStatusReq .parse), .ok (.nodeAvailableReq .parse), .ok (.nodeAvailableResp .parse),
        .ok (.pingReq .parse), .ok (.powerBufferReq .parse), .ok (.powerCalibrationReq .parse),
        .ok (.powerCalibrationResp .parse), .ok (.powerChangeReq .parse), .ok (.powerInfoReq .parse),
        .ok (.powerInfoResp .parse), .ok (.powerLogIntervalSetReq .parse), .ok (.rtcGetReq .parse),
        .ok (.roleCallReq .parse), .ok (.senseReportReq .parse), .ok (.sleepSetReq .parse),
        .ok (.broadcastGroupSwitchResp .parse)] := by decide +kernel

/-- The three forms, and lower-case digits of a type code, "compared as a number" (42_registry.md R151). -/
theorem test_variantForms :
    decode testRegistry (0x0D :: str "0105") = .ok (.senseReportReq .encode) ∧
      decode testRegistry (0x0F :: str "0105") = .ok (.senseReportReq .decode) ∧
      decode testRegistry (0x0E :: str "000d") = .ok (.pingReq .parse) := by decide +kernel

/-- Words that are no instruction. -/
theorem test_badWords :
    decode testRegistry [] = .error (.length 0) ∧ decode testRegistry [0x10] = .error (.command 0x10) ∧
      decode testRegistry [0xFF] = .error (.command 0xFF) ∧
      decode testRegistry (0x0C :: str "0105") = .error (.msgOp 0x0C) ∧
      decode testRegistry (0x0E :: str "01G5") = .error (.typeField .parse) ∧
      decode testRegistry (0x0E :: str "FFFF") = .error (.unknownType .parse 0xFFFF) ∧
      decode testRegistry (str "0105") = .error (.length 4) := by decide +kernel

/-- A command code as the opcode table numbers it, placed and run as the first instruction after reset. -/
theorem test_withFetchWord :
    decodeTableWord 4 0xA = some .crcCompute ∧
      gives (step (State.reset.withFetchWord 4 0xA)) (fun t => t.st == .parsed && t.output == some (str "0000")) := by
  decide +kernel

/-! ### 2. Well-formedness: each check accepts and refuses -/

theorem test_wf_width :
    Instr.wf testRegistry closedTable 5 .hexEncu { val := some 5, w := some 16 } = true ∧
      Instr.wf testRegistry closedTable 5 .hexEncu { val := some 5, w := some 0 } = false ∧
      Instr.wf testRegistry closedTable 5 .hexEncu { val := some 5, w := some 17 } = false ∧
      Instr.wf testRegistry closedTable 5 .hexEncu { val := some 5 } = false ∧
      Instr.wf testRegistry closedTable 5 .hexEncu { w := some 4 } = false := by decide +kernel

theorem test_wf_value : [.hexEncf32, .hexEncds, .hexEncdm, .hexEncmac].all (fun i =>
    Instr.wf testRegistry closedTable 5 i { val := some 0 } && !Instr.wf testRegistry closedTable 5 i {}) = true := by
  decide +kernel

theorem test_wf_length : [(.hexDecu, 16), (.hexDecf32, 8), (.hexDecds, 2), (.hexDecdm, 4), (.hexDecmac, 16),
    (.regFromcode, 4)].all (fun (i, n) =>
    Instr.wf testRegistry closedTable 5 i { ib := List.replicate n 0x30 } &&
      !Instr.wf testRegistry closedTable 5 i { ib := List.replicate (n + 1) 0x30 }) = true := by decide +kernel

theorem test_wf_tag :
    Instr.wf testRegistry closedTable 5 .regTocode { tag := some .pingReq } = true ∧
      Instr.wf testRegistry closedTable 5 .regTocode {} = false ∧
      Instr.wf testRegistry closedTable 5 .frmEncode {} = false := by decide +kernel

/-- A message needs a grammar, its MAC, every field, and a `BOOL` of 0 or 1. -/
theorem test_wf_message :
    Instr.wf testRegistry closedTable 5 .frmEncode { tag := some .powerChangeReq, mac := some 0, fields := [some 1] } =
        true ∧
      Instr.wf testRegistry closedTable 5 .frmEncode { tag := some .powerChangeReq, fields := [some 1] } = false ∧
      Instr.wf testRegistry closedTable 5 .frmEncode { tag := some .powerChangeReq, mac := some 0 } = false ∧
      Instr.wf testRegistry closedTable 5 .frmEncode { tag := some .powerChangeReq, mac := some 0, fields := [none] } =
        false ∧
      Instr.wf testRegistry closedTable 5 .frmEncode { tag := some .powerChangeReq, mac := some 0, fields := [some 2] } =
        false ∧
      Instr.wf testRegistry closedTable 5 .frmEncode { tag := some .pingReq, mac := some 0 } = false ∧
      Instr.wf testRegistry closedTable 5 (.powerChangeReq .encode) { mac := some 0, fields := [some 2] } = false := by
  decide +kernel

/-- A frame needs a grammar for the code it carries; a payload needs a type code; a variant's form takes its own code. -/
theorem test_wf_dispatch :
    Instr.wf testRegistry closedTable 5 .frmParse { ib := str "01050003" } = true ∧
      Instr.wf testRegistry closedTable 5 .frmParse { ib := str "000D0001" } = false ∧
      Instr.wf testRegistry closedTable 5 .msgDecode { ib := str "FFFF" } = true ∧
      Instr.wf testRegistry closedTable 5 .msgDecode { ib := str "000D" } = false ∧
      Instr.wf testRegistry closedTable 5 .msgDecode { ib := str "010" } = false ∧
      Instr.wf testRegistry closedTable 5 (.senseReportReq .parse) { ib := str "0105" } = true ∧
      Instr.wf testRegistry closedTable 5 (.senseReportReq .parse) { ib := str "0017" } = false ∧
      Instr.wf testRegistry closedTable 5 (.pingReq .decode) {} = false := by decide +kernel

/-- No more fields than field registers. -/
theorem test_wf_fields :
    Instr.wf testRegistry closedTable 5 .crcCompute { fields := List.replicate 5 none } = true ∧
      Instr.wf testRegistry closedTable 5 .crcCompute { fields := List.replicate 6 none } = false := by decide +kernel

/-- No string longer than the buffer. -/
theorem test_wf_tooLong (n : Nat) (h : Config.lMax < n) :
    Instr.wf testRegistry closedTable 5 .crcCompute { ib := List.replicate n 0 } = false := by
  have : ¬ n ≤ Config.lMax := by omega
  simp [Instr.wf, this]

/-- The test registry is a registry; one with a code twice, or with `0xFFFF`, is none (42_registry.md R150). -/
theorem test_wf_registry :
    Registry.wf testRegistry = true ∧
      Registry.wf { testRegistry with pingReq := 0x0105 } = false ∧
      Registry.wf { testRegistry with pingReq := 0xFFFF } = false := by decide +kernel

/-- The variant tables; a row of the document that is changed, a grammar of too many fields, an inbound `PBADDR`, and a
duration list with another kind are refused. -/
theorem test_wf_table :
    VariantTable.wf 5 closedTable = true ∧ VariantTable.wf 5 openTable = true ∧
      VariantTable.wf 5 { closedTable with roleCallReq := closedRow .roleCallReq .both false [.u .w2] } = false ∧
      VariantTable.wf 5 { closedTable with
        pingReq := openRow .pingReq (some { suppliedGrammar with fields := List.replicate 6 .f32 }) } = false ∧
      VariantTable.wf 5 { closedTable with
        pingReq := openRow .pingReq (some { suppliedGrammar with fields := [.pbaddr] }) } = false ∧
      VariantTable.wf 5 { closedTable with sleepSetReq := durationRow .sleepSetReq (some [.bool]) } = false := by
  decide +kernel

/-! ### 3. HEX unit (95_test_vectors.md section 4) -/

/-- `HEX.ENCU v, w`. -/
def encu (v : Word) (w : BitVec 5) : String := run .hexEncu { val := some v, w := some w }

theorem test_hexEncu :
    encu 0 2 = "-> \"00\"" ∧ encu 255 2 = "-> \"FF\"" ∧ encu 256 2 = "-> !FieldOverflow(VALUE)" ∧
      encu 10 1 = "-> \"A\"" ∧ encu 16 1 = "-> !FieldOverflow(VALUE)" ∧ encu 0xABC 4 = "-> \"0ABC\"" ∧
      encu 65535 4 = "-> \"FFFF\"" ∧ encu 65536 4 = "-> !FieldOverflow(VALUE)" ∧
      encu 278528 8 = "-> \"00044000\"" ∧ encu 0xFFFFFFFFFFFFFFFF 16 = "-> \"FFFFFFFFFFFFFFFF\"" ∧
      encu 5 0 = "refused" ∧ encu 5 17 = "refused" := by decide +kernel

theorem test_hexDecu :
    runS .hexDecu "0" = "-> 0" ∧ runS .hexDecu "f" = "-> 15" ∧ runS .hexDecu "F" = "-> 15" ∧
      runS .hexDecu "aB" = "-> 171" ∧ runS .hexDecu "000A" = "-> 10" ∧
      runS .hexDecu "FFFFFFFFFFFFFFFF" = "-> 18446744073709551615" ∧
      ["", " 1", "12 ", "0x1F", "-1", "1G"].all (fun s => runS .hexDecu s == "-> !MalformedHex(VALUE)") ∧
      runS .hexDecu "00000000000000000" = "refused" := by decide +kernel

theorem test_hexEncf32 :
    runV .hexEncf32 0x3F800000 = "-> \"3F800000\"" ∧ runV .hexEncf32 0x80000000 = "-> \"80000000\"" ∧
      runV .hexEncf32 0xFFFFFFFF7FC00001 = "-> \"7FC00001\"" := by decide +kernel

theorem test_hexDecf32 :
    runS .hexDecf32 "7fc00001" = "-> 2143289345" ∧ runS .hexDecf32 "BF000000" = "-> 3204448256" ∧
      runS .hexDecf32 "BF00000G" = "-> !MalformedHex(VALUE)" ∧ runS .hexDecf32 "BF0000" = "refused" := by
  decide +kernel

theorem test_hexEncds :
    runV .hexEncds 0 = "-> \"00\"" ∧ runV .hexEncds 10 = "-> \"0A\"" ∧ runV .hexEncds 255 = "-> \"FF\"" ∧
      runV .hexEncds 256 = "-> !FieldOverflow(VALUE)" := by decide +kernel

theorem test_hexDecds :
    runS .hexDecds "ff" = "-> 255" ∧ runS .hexDecds "f" = "refused" ∧
      runS .hexDecds "0g" = "-> !MalformedHex(VALUE)" := by decide +kernel

theorem test_hexEncdm :
    runV .hexEncdm 0 = "-> \"0000\"" ∧ runV .hexEncdm 1440 = "-> \"05A0\"" ∧ runV .hexEncdm 65535 = "-> \"FFFF\"" ∧
      runV .hexEncdm 65536 = "-> !FieldOverflow(VALUE)" := by decide +kernel

theorem test_hexDecdm : runS .hexDecdm "05A0" = "-> 1440" ∧ runS .hexDecdm "05A" = "refused" := by decide +kernel

theorem test_hexEncmac :
    runV .hexEncmac 0x0123456789ABCDEF = "-> \"0123456789ABCDEF\"" ∧
      runV .hexEncmac 0 = "-> \"0000000000000000\"" := by decide +kernel

theorem test_hexDecmac :
    runS .hexDecmac "000d6f0000b1b64b" = "-> 3781220499568203" ∧ macM = 3781220499568203 ∧
      runS .hexDecmac "000D6F0000B1B64" = "refused" ∧
      runS .hexDecmac "000D6F0000B1B64X" = "-> !MalformedHex(VALUE)" := by decide +kernel

/-- An operand register without a value: the read is refused (10_state.md R35), `ST = UNPARSED` and nothing is written
(60_exceptions.md R275). -/
theorem test_noValue :
    run .hexEncu {} = "refused" ∧ run .regTocode {} = "refused" ∧
      gives (outcome .hexEncu {}) (fun t => t.st == .unparsed && t.refusal == some (.noValue .val) && t.olen == 0) :=
  by decide +kernel

/-- 40_hexcodec.md R110. -/
theorem test_upper :
    (decU (str "000d6f0000b1b64b")).bind (fun v => encU v 16) = some (str "000D6F0000B1B64B") := by decide +kernel

/-! ### 4. CRC unit (95_test_vectors.md section 2) -/

theorem test_crcBit :
    crcBit 0x0000 false = 0x0000 ∧ crcBit 0x0000 true = 0x1021 ∧ crcBit 0x8000 false = 0x1021 ∧
      crcBit 0x8000 true = 0x0000 ∧ crcBit 0xFFFF false = 0xEFDF ∧ crcBit 0xFFFF true = 0xFFFE := by decide +kernel

theorem test_crcByte :
    [0x0000, 0x1021, 0x2042, 0x4084, 0x8108, 0x1231, 0x2462, 0x58E5] =
        ((List.range 8).map (fun n => ([7, 6, 5, 4, 3, 2, 1, 0].take (n + 1)).foldl
          (fun c k => crcBit c ((0x41 : Byte).getLsbD k)) 0)) ∧
      crcByte 0 0x41 = 0x58E5 := by decide +kernel

theorem test_crc16 :
    ["", "0", "1", "A", "a", "00", "0000", "000A", "000a", "0000000A", "FFFF", "0123456789ABCDEF", "123456789"].map
        (fun s => crc16 (str s)) =
      [0x0000, 0x3653, 0x2672, 0x58E5, 0x7C87, 0x33C6, 0xDA8A, 0xB43C, 0x905E, 0x880F, 0x6960, 0x4615, 0x31C3] ∧
      [[0x00], 0x00 :: 0x00 :: str "000A", [0x80], [0xFF]].map crc16 = [0x0000, 0xB43C, 0x9188, 0x1EF0] := by
  decide +kernel

theorem test_crcCompute :
    runS .crcCompute "000A" = "-> \"B43C\"" ∧ runS .crcCompute "" = "-> \"0000\"" ∧
      gives (outcome .crcCompute { ib := str "0048000D6F0000B1B64B00044000" })
        (fun t => t.crc == 0xAF07 && t.output == some (str "AF07")) := by decide +kernel

theorem test_crcWide : crcWide (str "123456789") = 0x31C3 := by decide +kernel

/-! ### 5. Registry (95_test_vectors.md section 5) -/

theorem test_regFromcode :
    runS .regFromcode "0105" = "-> SENSE_REPORT_REQ" ∧ runS .regFromcode "000d" = "-> PING_REQ" ∧
      runS .regFromcode "0018" = "-> ROLE_CALL_REQ" ∧
      runS .regFromcode "FFFF" = "-> !UnknownMessageType(0xFFFF)" ∧
      runS .regFromcode "0000" = "-> !UnknownMessageType(0x0000)" ∧
      runS .regFromcode "01G5" = "-> !MalformedHex(TYPE)" := by decide +kernel

theorem test_regTocode :
    run .regTocode { tag := some .powerChangeReq } = "-> \"0017\"" ∧
      run .regTocode { tag := some .senseReportReq } = "-> \"0105\"" ∧
      Tag.all.all (fun t => runS .regFromcode (plainText (hex16 (testCode t))) == "-> " ++ t.text) := by
  decide +kernel

/-! ### 6. Frame parse (95_test_vectors.md section 6, rows P1 to P27) -/

theorem test_parse_P1_to_P5 :
    ["01050003000D6F0000B1B64B7B2E6A7CF1B2", "01050003000D6F0000B1B64B7B2E6A7CF1B3",
      "01050003000D6F0000B1B64B7B2E6A7Cf1b2", "01050003000d6f0000b1b64b7b2e6a7cf1b2",
      "01050003000d6f0000b1b64b7b2e6a7c0CC6"].map (runS .frmParse) =
      ["-> SENSE_REPORT_REQ seq=0x0003 mac=0x000D6F0000B1B64B humidityRaw=31534 temperatureRaw=27260",
        "-> !ChecksumMismatch",
        "-> SENSE_REPORT_REQ seq=0x0003 mac=0x000D6F0000B1B64B humidityRaw=31534 temperatureRaw=27260",
        "-> !ChecksumMismatch",
        "-> SENSE_REPORT_REQ seq=0x0003 mac=0x000D6F0000B1B64B humidityRaw=31534 temperatureRaw=27260"] := by
  decide +kernel

theorem test_parse_P6_to_P9 :
    ["01050003000D6F0000B1B64B7B2E6A1A4B", "01050003000D6F0000B1B64B7B2E6A7C0094AF",
      "01050003000D6F0000B1B64B7B2E6A7BECF", "01050003000D6F0000B1B64B7BZE6A7CA3E8"].map (runS .frmParse) =
      ["-> !PayloadMismatch(type=0x0105, pattern=16,4,4, payload=\"000D6F0000B1B64B7B2E6A\")",
        "-> !PayloadMismatch(type=0x0105, pattern=16,4,4, payload=\"000D6F0000B1B64B7B2E6A7C00\")",
        "-> !PayloadMismatch(type=0x0105, pattern=16,4,4, payload=\"000D6F0000B1B64B7B2E6A7\")",
        "-> !PayloadMismatch(type=0x0105, pattern=16,4,4, payload=\"000D6F0000B1B64B7BZE6A7C\")"] := by
  decide +kernel

theorem test_parse_P10_to_P18 :
    ["FFFF0001000D6F0000B1B64B9BF7", "0018000700EECE", "", "010", "01G5", "0105", "010500", "0105000Z", "01050003",
      "0105000312", "010500031234", "01050003000D6F0000B1B64B7B2E6A7CF1BZ", "000D00016218"].map (runS .frmParse) =
      ["-> !UnknownMessageType(0xFFFF)", "-> !UnknownMessageType(0x0018)", "-> !MalformedHex(TYPE)",
        "-> !MalformedHex(TYPE)", "-> !MalformedHex(TYPE)", "-> !MalformedHex(SEQ)", "-> !MalformedHex(SEQ)",
        "-> !MalformedHex(SEQ)", "-> !MalformedHex(CRC)", "-> !MalformedHex(CRC)",
        "-> !PayloadMismatch(type=0x0105, pattern=16,4,4, payload=\"\")", "-> !MalformedHex(CRC)", "refused"] := by
  decide +kernel

theorem test_parse_P19_to_P22 :
    ["00560007000D6F0000B1B64B03011A53", "00560008000D6F0000B1B64BFF02BAD2", "00060009000D6F0000B1B64B466C",
      "0061000A000D6F0000B1B64BEE0A"].map (runS .frmParse) =
      ["-> BROADCAST_GROUP_SWITCH_RESP seq=0x0007 mac=0x000D6F0000B1B64B portMask=3 powerState=1",
        "-> BROADCAST_GROUP_SWITCH_RESP seq=0x0008 mac=0x000D6F0000B1B64B portMask=255 powerState=0",
        "-> NODE_AVAILABLE_REQ seq=0x0009 mac=0x000D6F0000B1B64B",
        "-> MODULE_JOINED_NETWORK_REQ seq=0x000A mac=0x000D6F0000B1B64B"] := by decide +kernel

theorem test_parse_P26_P27 :
    ["001700010123456789ABCDEF01A857", "00170123456789ABCDEF01703A"].map (runS .frmParse) =
      ["-> POWER_CHANGE_REQ seq=0x0001 mac=0x0123456789ABCDEF powerState=1",
        "-> !PayloadMismatch(type=0x0017, pattern=16,2, payload=\"456789ABCDEF01\")"] := by decide +kernel

/-- The fields of a frame, with its checksum verified. -/
def fieldsOf (s : String) : Option (List Word) :=
  match splitFrame (dispatch testRegistry closedTable) 5 (str s) with
  | .ok m => some m.fields
  | .error _ => none

/-- P23, P24 and P25: the fields. -/
theorem test_parse_P23_to_P25 :
    fieldsOf "00270006000D6F0000B1B64B3F800000BF000000000000007FC0000162C8" =
        some [0x3F800000, 0xBF000000, 0, 0x7FC00001] ∧
      fieldsOf "00130004000D6F0000B1B64B001000800000E10000000000B71BF64C" = some [16, 128, 57600, 0, 46875] ∧
      fieldsOf "00130005000D6F0000B1B64B0000000000000000FFFFFFFF00006D80" = some [0, 0, 0, 4294967295, 0] := by
  decide +kernel

/-- A string in two parts. -/
theorem crc16_append (x y : List Byte) : crc16 (x ++ y) = y.foldl crcByte (crc16 x) := by
  simp [crc16, List.foldl_append]

/-- P23, P24 and P25: the checksums, each computed in two parts (the register value between them is hand computed). -/
theorem test_crc_P23 :
    crc16 (str "00270006000D6F0000B1B64B" ++ str "3F800000BF000000000000007FC00001") = 0x62C8 := by
  rw [crc16_append, show crc16 (str "00270006000D6F0000B1B64B") = 0xBD94 by decide +kernel]
  decide +kernel
theorem test_crc_P24 : crc16 (str "00130004000D6F0000B1B64B" ++ str "001000800000E10000000000B71B") = 0xF64C := by
  rw [crc16_append, show crc16 (str "00130004000D6F0000B1B64B") = 0x4D83 by decide +kernel]
  decide +kernel
theorem test_crc_P25 : crc16 (str "00130005000D6F0000B1B64B" ++ str "0000000000000000FFFFFFFF0000") = 0x6D80 := by
  rw [crc16_append, show crc16 (str "00130005000D6F0000B1B64B") = 0x5D61 by decide +kernel]
  decide +kernel

/-- The state after a power-information response with these fields. -/
def powerInfo (fs : List Word) : State := base.message .powerInfoResp 0x0013 (some 4) (some macM) fs

/-- The Energies of P24 and P25 (44_payload_grammars.md R231). -/
theorem test_energies :
    (powerInfo [16, 128, 57600, 0, 46875]).corr = some 1 ∧
      (powerInfo [16, 128, 57600, 0, 46875]).energyOneSecond = some { pulses := 16, basis := .seconds 2 } ∧
      (powerInfo [16, 128, 57600, 0, 46875]).energyEightSec = some { pulses := 128, basis := .seconds 9 } ∧
      (powerInfo [16, 128, 57600, 0, 46875]).energyHourCons = some { pulses := 57600, basis := .oneHour } ∧
      (powerInfo [16, 128, 57600, 0, 46875]).energyHourProd = some { pulses := 0, basis := .oneHour } ∧
      (powerInfo [0, 0, 0, 4294967295, 0]).corr = some 0 ∧
      (powerInfo [0, 0, 0, 4294967295, 0]).energyOneSecond = some { pulses := 0, basis := .seconds 1 } ∧
      (powerInfo [0, 0, 0, 4294967295, 0]).energyEightSec = some { pulses := 0, basis := .seconds 8 } ∧
      (powerInfo [0, 0, 0, 4294967295, 0]).energyHourProd = some { pulses := 4294967295, basis := .oneHour } := by
  decide +kernel

/-- Program 2, steps 1 and 2: the registers after a message, and after a failure. -/
theorem test_parse_registers :
    gives (outcome .frmParse { ib := str "01050003000D6F0000B1B64B7B2E6A7CF1B2" }) (fun t =>
        t.st == .parsed && t.tag == some .senseReportReq && t.code == some 0x0105 && t.seq == some 3 &&
          t.mac == some macM && t.f == [some 0x7B2E, some 0x6A7C, none, none, none] && t.olen == 0 && t.crc == 0xF1B2) ∧
      gives (outcome .frmParse { ib := str "FFFF0001000D6F0000B1B64B9BF7" }) (fun t =>
        t.st == .failed && (t.err.map CodecError.kind) == some 4 && (t.err.bind CodecError.code) == some 0xFFFF &&
          t.f == List.replicate 5 none && t.tag == none) := by decide +kernel

/-- `MSG.DECODE` (95_test_vectors.md section 6, second table). -/
theorem test_msgDecode :
    run .msgDecode { ib := str "0105000D6F0000B1B64B7B2E6A7C" } =
        "-> SENSE_REPORT_REQ mac=0x000D6F0000B1B64B humidityRaw=31534 temperatureRaw=27260" ∧
      run .msgDecode { ib := str "0105000D6F0000B1B64B7B2E6A", seq := some 3 } =
        "-> !PayloadMismatch(type=0x0105, pattern=16,4,4, payload=\"000D6F0000B1B64B7B2E6A\")" ∧
      run .msgDecode { ib := str "0105000D6F0000B1B64B7B2E6A7C00", seq := some 3 } =
        "-> !PayloadMismatch(type=0x0105, pattern=16,4,4, payload=\"000D6F0000B1B64B7B2E6A7C00\")" ∧
      run .msgDecode { ib := str "FFFF000D6F0000B1B64B", seq := some 1 } = "-> !UnknownMessageType(0xFFFF)" ∧
      run .msgDecode { ib := str "0056000d6f0000b1b64b0301", seq := some 7 } =
        "-> BROADCAST_GROUP_SWITCH_RESP seq=0x0007 mac=0x000D6F0000B1B64B portMask=3 powerState=1" ∧
      run .msgDecode { ib := str "010" } = "refused" := by decide +kernel

/-! ### 7. Frame encode (95_test_vectors.md section 7) -/

/-- `FRM.ENCODE`. -/
def enc (t : Tag) (q : Option (BitVec 16)) (m : Option Word) (fs : List Word) : String :=
  run .frmEncode { tag := some t, seq := q, mac := m, fields := fs.map some }

theorem test_encode_powerChange :
    enc .powerChangeReq none (some 0x0123456789ABCDEF) [1] = "-> \"00170123456789ABCDEF01703A\"" ∧
      enc .powerChangeReq (some 1) (some 0x0123456789ABCDEF) [1] = "-> \"001700010123456789ABCDEF01A857\"" ∧
      enc .powerChangeReq (some 1) (some 0x0123456789ABCDEF) [0] = "-> \"001700010123456789ABCDEF00B876\"" ∧
      enc .powerChangeReq none (some 0) [0] = "-> \"00170000000000000000005CF3\"" ∧
      enc .powerChangeReq (some 0xFFFF) (some 0xFFFFFFFFFFFFFFFF) [1] = "-> \"0017FFFFFFFFFFFFFFFFFFFF0175ED\"" ∧
      enc .powerChangeReq none none [1] = "refused" ∧ enc .powerChangeReq none (some 0) [2] = "refused" := by
  decide +kernel

theorem test_encode_roleCall :
    enc .roleCallReq none none [0] = "-> \"00180026FD\"" ∧ enc .roleCallReq none none [63] = "-> \"00183F6DFF\"" ∧
      enc .roleCallReq (some 7) none [63] = "-> \"001800073FA5CC\"" ∧
      enc .roleCallReq none none [64] = "-> \"001840EA39\"" ∧ enc .roleCallReq none none [255] = "-> \"0018FF9A53\"" ∧
      enc .roleCallReq none none [256] = "-> !FieldOverflow(field 0)" ∧
      enc .roleCallReq none (some 1) [0] = "-> \"00180026FD\"" := by decide +kernel

theorem test_encode_powerBuffer :
    enc .powerBufferReq none (some 0x0123456789ABCDEF) [0] = "-> \"00480123456789ABCDEF00044000F5CA\"" ∧
      enc .powerBufferReq none (some 0x0123456789ABCDEF) [1] = "-> \"00480123456789ABCDEF0004402093A8\"" ∧
      enc .powerBufferReq (some 2) (some 0x0123456789ABCDEF) [134209023] =
        "-> \"004800020123456789ABCDEFFFFFFFE0CC88\"" ∧
      enc .powerBufferReq none (some 0x0123456789ABCDEF) [134209024] = "-> !FieldOverflow(field 0)" ∧
      enc .powerBufferReq none (some macM) [0] = "-> \"0048000D6F0000B1B64B00044000AF07\"" := by decide +kernel

theorem test_encode_others :
    enc .senseReportReq (some 3) (some macM) [0x7B2E, 0x6A7C] = "-> \"01050003000D6F0000B1B64B7B2E6A7CF1B2\"" ∧
      enc .broadcastGroupSwitchResp (some 7) (some macM) [3, 1] = "-> \"00560007000D6F0000B1B64B03011A53\"" ∧
      enc .powerInfoResp (some 4) (some macM) [65536, 0, 0, 0, 0] = "-> !FieldOverflow(field 0)" ∧
      enc .powerInfoResp (some 4) (some macM) [0, 0, 0x100000000, 0x100000000, 70000] =
        "-> !FieldOverflow(field 2)" ∧
      enc .pingReq none (some macM) [] = "refused" := by decide +kernel

/-- Fields 1 to 4 of an encoded frame (30_encoding.md R71). -/
def bodyOf (t : Tag) (q : BitVec 16) (fs : List Word) : Option (List Byte) :=
  match frameBody t (base.load { seq := some q, mac := some macM, fields := fs.map some }) with
  | .ok b => some b
  | .error _ => none

/-- The frames of P23 and P24, encoded; their checksums are test_crc_P23 and test_crc_P24. -/
theorem test_encode_long :
    bodyOf .powerCalibrationResp 6 [0x3F800000, 0xBF000000, 0, 0x7FC00001] =
        some (str "00270006000D6F0000B1B64B3F800000BF000000000000007FC00001") ∧
      bodyOf .powerInfoResp 4 [16, 128, 57600, 0, 46875] =
        some (str "00130004000D6F0000B1B64B001000800000E10000000000B71B") := by decide +kernel

/-- The message registers are not modified (43_framing.md R170), `M.CODE` is `CODE(M.TAG)` (10_state.md R26), and the CRC
register holds the checksum. -/
theorem test_encode_registers :
    gives (outcome .frmEncode { tag := some .roleCallReq, seq := some 7, mac := some 1, fields := [some 63, some 9] })
      (fun t => t.tag == some .roleCallReq && t.code == some 0x0018 && t.seq == some 7 && t.mac == some 1 && t.fieldReg 1 == some 9 &&
        t.olen == 14 && t.crc == 0xA5CC) := by decide +kernel

/-! ### 8. The variants' own forms (log 10) -/

/-- The three forms of `t` from `baseOpen`: what is encoded is parsed back, and its payload is decoded. -/
def threeForms (t : Tag) : Bool :=
  gives (exec (t.instr .encode) (baseOpen.load { seq := some 7, mac := some macM, fields := [some 3, some 1] })) fun e =>
    e.st == .parsed && e.tag == some t && e.code == some (testCode t) &&
      (match e.output with
        | some x =>
          textOf (exec (t.instr .parse) (baseOpen.load { ib := x })) ==
              "-> " ++ messageText t (some 7) (some macM) [some 3, some 1] &&
            textOf (exec (t.instr .decode) (baseOpen.load { ib := (x.drop 8).take (x.length - 12) })) ==
              "-> " ++ messageText t none (some macM) [some 3, some 1]
        | none => false)

/-- Every OPEN variant whose grammar is supplied, and which renders its sequence number. -/
theorem test_openVariants :
    [Tag.clockGetReq, .clockGetResp, .deviceInfoReq, .deviceInfoResp, .lightCalibrationReq, .networkResetReq,
      .nodeAvailableResp, .pingReq, .powerCalibrationReq, .powerInfoReq, .rtcGetReq].all threeForms = true := by
  decide +kernel

/-- The network-status request never renders a sequence number (44_payload_grammars.md R208); its frame, which carries none,
is not parsed back (70 R297), its payload is. -/
theorem test_networkStatus :
    textOf (exec (.networkStatusReq .encode)
        (baseOpen.load { seq := some 7, mac := some macM, fields := [some 3, some 1] })) =
        "-> " ++ quotedText (withCrc (str "000A000D6F0000B1B64B0301")) ∧
      textOf (exec (.networkStatusReq .parse) (baseOpen.load
        { ib := withCrc (str "000A000D6F0000B1B64B0301") })) =
        "-> !PayloadMismatch(type=0x000A, pattern=16,2,2, payload=\"6F0000B1B64B0301\")" ∧
      textOf (exec (.networkStatusReq .decode) (baseOpen.load { ib := str "000D6F0000B1B64B0301" })) =
        "-> NETWORK_STATUS_REQ mac=0x000D6F0000B1B64B F[0]=3 F[1]=1" := by decide +kernel

/-- The two variants whose field list is OPEN (44_payload_grammars.md R218, R222): one narrow and one wide duration. -/
theorem test_durations :
    [Tag.powerLogIntervalSetReq, .sleepSetReq].all (fun t =>
      textOf (exec (t.instr .encode) (baseOpen.load { mac := some macM, fields := [some 10, some 1440] })) ==
          "-> " ++ quotedText (withCrc (hex16 (testCode t) ++ str "000D6F0000B1B64B0A05A0")) &&
        textOf (exec (t.instr .encode) (baseOpen.load { mac := some macM, fields := [some 10, some 65536] })) ==
          "-> !FieldOverflow(field 1)" &&
        textOf (exec (t.instr .encode) (base.load { mac := some macM, fields := [some 10, some 1440] })) == "refused" &&
        textOf (exec (t.instr .decode) (baseOpen.load { ib := str "000D6F0000B1B64B0A05A0" })) ==
          "-> !UnknownMessageType(" ++ hexText 4 (testCode t).toNat ++ ")") = true := by decide +kernel

/-- The variants whose grammar the document gives: their encode form is the vector of section 7, and a frame of an
outbound-only variant is rejected. -/
theorem test_knownVariants :
    textOf (exec (.powerChangeReq .encode) (base.load { mac := some 0x0123456789ABCDEF, fields := [some 1] })) =
        "-> \"00170123456789ABCDEF01703A\"" ∧
      textOf (exec (.moduleJoinedNetworkReq .parse) (base.load { ib := str "0061000A000D6F0000B1B64BEE0A" })) =
        "-> MODULE_JOINED_NETWORK_REQ seq=0x000A mac=0x000D6F0000B1B64B" ∧
      textOf (exec (.nodeAvailableReq .parse) (base.load { ib := str "0061000A000D6F0000B1B64BEE0A" })) = "refused" ∧
      textOf (exec (.broadcastGroupSwitchResp .decode) (base.load { ib := str "000D6F0000B1B64BFF02" })) =
        "-> BROADCAST_GROUP_SWITCH_RESP mac=0x000D6F0000B1B64B portMask=255 powerState=0" ∧
      textOf (exec (.roleCallReq .parse) (base.load { ib := str "0018000700EECE" })) =
        "-> !UnknownMessageType(0x0018)" ∧
      textOf (exec (.pingReq .parse) (base.load { ib := str "000D00016218" })) = "refused" := by decide +kernel

/-! ### 9. Steps and the notation -/

/-- A step takes the oldest input; a reset clears the results (70_reset_and_hazards.md R290). -/
theorem test_step :
    gives (step { base with queue := [.command [0x0A] { ib := str "000A" }, .reset] })
        (fun t => t.output == some (str "B43C") && t.queue == [.reset]) ∧
      gives (step { base with st := .parsed, val := some 5, crc := 7, queue := [.reset] })
        (fun t => t == base) ∧
      gives (step base) (fun t => t == base) ∧
      textOf (step { base with queue := [.command [0x10] {}] }) = "refused" ∧
      gives (step { base with queue := [.command (0x0E :: str "FFFF") {}] })
        (fun t => t.err == some (.unknownMessageType 0xFFFF)) := by decide +kernel

/-- Lines of 95_test_vectors.md and 30_encoding.md R91. -/
theorem test_notation :
    commandText testRegistry .hexEncu { val := some 278528, w := some 8 } = some "HEX.ENCU 278528, 8" ∧
      commandText testRegistry .hexEncf32 { val := some 0x3F800000 } = some "HEX.ENCF32 0x3F800000" ∧
      commandText testRegistry .regTocode { tag := some .powerChangeReq } = some "REG.TOCODE POWER_CHANGE_REQ" ∧
      commandText testRegistry .frmEncode { tag := some .roleCallReq, seq := some 7, fields := [some 63] } =
        some "FRM.ENCODE ROLE_CALL_REQ seq=0x0007 nodeId=63" ∧
      commandText testRegistry .msgDecode { ib := str "0105000D6F0000B1B64B7B2E6A7C" } =
        some "MSG.DECODE \"0105\", seq=none, \"000D6F0000B1B64B7B2E6A7C\"" ∧
      commandText testRegistry (.roleCallReq .encode) { fields := [some 0] } =
        some "FRM.ENCODE ROLE_CALL_REQ nodeId=0" ∧
      commandText testRegistry .hexEncds {} = none := by decide +kernel


/-! ### 10. Witnesses: for every obligation with hypotheses, a state and operands that meet them, clause by clause -/

theorem gives_next {x : Host.Outcome State Fault Refusal} {p : State → Bool} (h : gives x p = true) :
    ∃ t, x = .next t ∧ p t = true := by
  cases x with
  | next t => exact ⟨t, rfl, h⟩
  | fault r => cases h
  | refused r => cases h

/-- A string of at most 60 characters is an input, whatever `L_MAX` is. -/
theorem holdsInput (b : State) (o : Operands) (h : o.ib.length ≤ 60) : (b.load o).HoldsInput o.ib :=
  ⟨rfl, by unfold Config.lMax; omega, Memory.readString_ofString _⟩

/-- `base` with a string in `IB`. -/
def given (s : String) : State := base.load { ib := str s }

theorem witness_DecodeOfEncodeIsTheInstruction : testRegistry.wf = true := by decide +kernel

theorem witness_EncodeOfDecodeIsTheWord :
    decode testRegistry [0x0F] = .ok .msgDecode ∧ decode testRegistry (0x0E :: str "000d") = .ok (.pingReq .parse) := by
  decide +kernel

theorem witness_StepRunsTheDecodedInstruction :
    base.queue = [] ∧
      (let o : Operands := { ib := str "000A", fields := List.replicate 5 none }
       let s := { base with queue := [.command [0x0A] o] }
       s.queue = .command [0x0A] o :: [] ∧ o.fields.length ≤ s.f.length ∧ decode s.reg [0x0A] = .ok .crcCompute) ∧
      (let o : Operands := { fields := List.replicate 6 none }
       let s := { base with queue := [.command [0x0A] o] }
       s.queue = .command [0x0A] o :: [] ∧ s.f.length < o.fields.length) := by
  decide +kernel

/-- One word for every error of the decoder. -/
def badWords : List (List Byte × DecodeError) :=
  [(0x0E :: str "FFFF", .unknownType .parse 0xFFFF), (0x0F :: str "FFFF", .unknownType .decode 0xFFFF),
    (0x0D :: str "FFFF", .unknownType .encode 0xFFFF), (0x0E :: str "01G5", .typeField .parse),
    (0x0F :: str "01G5", .typeField .decode), (0x0D :: str "01G5", .typeField .encode), ([0x10], .command 0x10),
    (0x00 :: str "0105", .msgOp 0x00), ([], .length 0), (0x0E :: str "010", .length 4)]

theorem witness_BadWordsEndInTheirErrors :
    badWords.all (fun (w, e) =>
        let s := { base with queue := [.command w {}] }
        s.queue == .command w {} :: [] && decide (({} : Operands).fields.length ≤ s.f.length) &&
          decide (decode s.reg w = .error e)) = true := by decide +kernel

theorem witness_ResetLeavesNoResult :
    ({ base with val := some 1, queue := [.reset] } : State).queue = .reset :: [] := rfl

theorem witness_EncodeUnsignedWritesTheDigits :
    [(0, 1), (0xFFFFFFFFFFFFFFFF, 16), (16, 1), (0, 0), (0, 17)].all (fun ((v, w) : Word × BitVec 5) =>
        let s := base.load { val := some v, w := some w }
        s.val == some v && s.w == some w) = true ∧
      (0 : Word).toNat < 16 ^ 1 ∧ (0xFFFFFFFFFFFFFFFF : Word).toNat < 16 ^ 16 ∧ 16 ^ 1 ≤ (16 : Word).toNat ∧
      (0 : BitVec 5).toNat < 1 ∧ 16 < (17 : BitVec 5).toNat ∧ encU 255 2 = some (str "FF") := by decide +kernel

theorem witness_DecodeUnsignedReadsTheDigits :
    (given "0").HoldsInput (str "0") ∧ (given "ffffffffffffffff").HoldsInput (str "ffffffffffffffff") ∧
      (given "").HoldsInput (str "") ∧ (given "1G").HoldsInput (str "1G") ∧
      (given "00000000000000000").HoldsInput (str "00000000000000000") ∧
      (str "0" ≠ [] ∧ ∀ c ∈ str "0", isHex c = true) ∧
      ((str "ffffffffffffffff").length ≤ 16 ∧ ∀ c ∈ str "ffffffffffffffff", isHex c = true) ∧
      (∃ c ∈ str "1G", isHex c = false) ∧ 16 < (str "00000000000000000").length :=
  ⟨holdsInput _ _ (by decide +kernel), holdsInput _ _ (by decide +kernel), holdsInput _ _ (by decide +kernel),
    holdsInput _ _ (by decide +kernel), holdsInput _ _ (by decide +kernel), by decide +kernel⟩

theorem witness_FixedWidthEncodersWriteTheDigits :
    [255, 256, 65535, 65536].all (fun (v : Word) => (base.load { val := some v }).val == some v) = true ∧
      (255 : Word).toNat ≤ 255 ∧ 255 < (256 : Word).toNat ∧ (65535 : Word).toNat ≤ 65535 ∧
      65535 < (65536 : Word).toNat := by decide +kernel

/-- Digits, a character that is none, and another length, for each of the four widths. -/
theorem witness_FixedWidthDecodersReadTheDigits (n : Nat) (h : n = 8 ∨ n = 2 ∨ n = 4 ∨ n = 16) :
    ∃ x y z : List Byte,
      (base.load { ib := x }).HoldsInput x ∧ x.length = n ∧ (∀ c ∈ x, isHex c = true) ∧
        (base.load { ib := y }).HoldsInput y ∧ y.length = n ∧ (∃ c ∈ y, isHex c = false) ∧
        (base.load { ib := z }).HoldsInput z ∧ z.length ≠ n := by
  refine ⟨List.replicate n 0x66, List.replicate n 0x67, List.replicate (n + 1) 0x66, holdsInput _ _ ?_, ?_, ?_,
    holdsInput _ _ ?_, ?_, ?_, holdsInput _ _ ?_, ?_⟩ <;> rcases h with rfl | rfl | rfl | rfl <;> decide +kernel

theorem witness_HexCodecRoundTrips :
    (16 ^ 16 - 1 < 16 ^ 16 ∧ 0 < 16 ^ 1) ∧ 1 ≤ (str "f").length ∧ (str "f").length ≤ 16 ∧
      ∀ c ∈ str "f", isHex c = true := by decide +kernel

/-- A group at either end of a field, and the whole of it; two fields, the first of no width. -/
theorem witness_NarrowReadsSeeTheirDigits :
    encU (0x7B2E6A7C : BitVec 32).toNat 8 = some (str "7B2E6A7C") ∧
      [(7, 1), (0, 1), (0, 8)].all (fun (p, n) => decide (1 ≤ n ∧ p + n ≤ 8)) = true ∧
      encU 0x7B2E 4 = some (str "7B2E") ∧ encU 0x6A7C 4 = some (str "6A7C") ∧ 1 ≤ 4 + 4 ∧
      encU 0 0 = some (str "") ∧ 1 ≤ 0 + 4 := by decide +kernel

theorem witness_OperandWithoutValueIsRefused :
    base.val = none ∧ base.tag = none ∧
      (let s := base.load { val := some 0 }
       s.val.isSome = true ∧ s.w = none) := by decide +kernel

theorem witness_CrcBitStepShiftsAndXors : 0 < 16 ∧ 15 < 16 := by decide

theorem witness_CrcComputeIsTotal :
    (given "").HoldsInput (str "") ∧
      (base.load { ib := List.replicate 60 0x41 }).HoldsInput (List.replicate 60 0x41) :=
  ⟨holdsInput _ _ (by decide +kernel), holdsInput _ _ (by simp)⟩

theorem witness_CrcDetectsASingleChangedCharacter :
    (str "00").length = (str "A1").length ∧ (0x30 : Byte) ≠ 0x31 := by decide +kernel

theorem witness_FromCodeFindsTheVariant :
    base.reg.wf = true ∧ (given "01G5").HoldsInput (str "01G5") ∧ (given "0000").HoldsInput (str "0000") ∧
      (given "000d").HoldsInput (str "000d") ∧ (given "FFFF").HoldsInput (str "FFFF") ∧
      (given "010").HoldsInput (str "010") ∧
      ((str "01G5").length = 4 ∧ ∃ c ∈ str "01G5", isHex c = false) ∧
      ((∀ c ∈ str "0000", isHex c = true) ∧ Tag.all.all (fun t => (base.reg.get t).toNat != digitValue (str "0000"))) ∧
      ((∀ c ∈ str "000d", isHex c = true) ∧ (base.reg.get .pingReq).toNat = digitValue (str "000d")) ∧
      str "FFFF" = [0x46, 0x46, 0x46, 0x46] ∧ (str "010").length ≠ 4 :=
  ⟨by decide +kernel, holdsInput _ _ (by decide +kernel), holdsInput _ _ (by decide +kernel),
    holdsInput _ _ (by decide +kernel), holdsInput _ _ (by decide +kernel), holdsInput _ _ (by decide +kernel),
    by decide +kernel⟩

theorem witness_ToCodeIsTotal :
    (base.load { tag := some .pingReq }).tag = some .pingReq ∧ testRegistry.wf = true ∧
      testRegistry.lookup 0x000D = some .pingReq := by decide +kernel

theorem witness_PatternsOfTheKnownVariants :
    VariantTable.wf 5 closedTable = true ∧ (closedTable.get .powerChangeReq).grammar.isSome = true ∧
      (matchPayload { dir := .both, hasMac := true, fields := [.bool] } 0x0017 (str "0123456789ABCDEF01")) =
        .ok (some 0x0123456789ABCDEF, [1]) ∧
      (str "").length ≠ Grammar.explen { dir := .both, hasMac := true, fields := [.bool] } ∧
      (match splitFrame (dispatch testRegistry closedTable) 5 (str "001700010123456789ABCDEF01A857") with
        | .ok m => m.tag == .powerChangeReq
        | .error _ => false) = true := by decide +kernel

theorem witness_RowsOfTheVariantTable :
    VariantTable.wf 5 closedTable = true ∧ VariantTable.wf 5 openTable = true ∧
      (openTable.get .sleepSetReq).fields = some [.durS2, .durM4] := by decide +kernel

theorem witness_FieldKindsEncodeAndDecode :
    (Kind.u .w2).fits 255 ∧ (Kind.bool).fits 1 ∧ Kind.pbaddr.fits 134209023 ∧ ¬ (Kind.u .w2).fits 256 ∧
      ¬ Kind.durM4.fits 65536 ∧ ((str "7fc00001").length = Kind.f32.width ∧ ∀ c ∈ str "7fc00001", isHex c = true) := by
  unfold Kind.fits
  decide +kernel

theorem witness_BoolFieldsAreLiteralStrings : (2 : Word) ≠ 0 ∧ (2 : Word) ≠ 1 := by decide

theorem witness_PowerBufferAddressIsTranslated :
    (134209023 : Word).toNat ≤ 134209023 ∧ 134209023 < (134209024 : Word).toNat := by decide +kernel

/-- The message of a power change: `M.TAG`, no sequence number, a MAC, and one field. -/
def powerChange (v : Option Word) (m : Option Word) : State :=
  base.load { tag := some .powerChangeReq, mac := m, fields := [v] }

/-- The grammar of `POWER_CHANGE_REQ` (44_payload_grammars.md R209). -/
def powerChangeGrammar : Grammar := { dir := .both, hasMac := true, fields := [.bool] }

theorem powerChange_grammar (v m : Option Word) :
    (powerChange v m).tag = some .powerChangeReq ∧
      ((powerChange v m).vt.get .powerChangeReq).grammar = some powerChangeGrammar ∧
      (powerChange v m).f = v :: List.replicate 4 none := ⟨rfl, rfl, rfl⟩

theorem witness_EncodeWritesTheFrame :
    let s := powerChange (some 1) (some 0)
    (s.vt.get .powerChangeReq).grammar = some powerChangeGrammar ∧
      s.f = [(1 : Word)].map some ++ List.replicate 4 none ∧ allFit powerChangeGrammar.fields [1] ∧
      (powerChangeGrammar.hasMac = true → s.mac.isSome = true) ∧ s.tag = some .powerChangeReq ∧
      (outboundBody (s.reg.get .powerChangeReq) (s.vt.get .powerChangeReq).seqTx s.seq
        (if powerChangeGrammar.hasMac then s.mac else none) (payloadText powerChangeGrammar.fields [1])).length + 4 ≤
          Config.lMax := by
  refine ⟨rfl, rfl, ?_, fun _ => rfl, rfl, by decide +kernel⟩
  simp only [powerChangeGrammar, allFit, and_true]
  exact ⟨by decide +kernel, by decide +kernel⟩

/-- The same with an OPEN variant whose grammar is supplied. -/
theorem witness_EncodeWritesTheFrame_open :
    let s := baseOpen.load { seq := some 7, mac := some 0, fields := [some 255, some 1] }
    (s.vt.get .pingReq).grammar = some suppliedGrammar ∧ s.f = [(255 : Word), 1].map some ++ List.replicate 3 none ∧
      allFit suppliedGrammar.fields [255, 1] ∧ s.mac.isSome = true ∧
      (outboundBody (s.reg.get .pingReq) (s.vt.get .pingReq).seqTx s.seq (if suppliedGrammar.hasMac then s.mac else none)
        (payloadText suppliedGrammar.fields [255, 1])).length + 4 ≤ Config.lMax := by
  refine ⟨rfl, rfl, ?_, rfl, by decide +kernel⟩
  simp only [suppliedGrammar, allFit, and_true]
  exact ⟨⟨by decide +kernel, by decide +kernel⟩, by decide +kernel, by decide +kernel⟩

theorem witness_FirstOverflowingFieldIsReported :
    let s := base.load { tag := some .powerBufferReq, mac := some 0, fields := [some 134209024] }
    s.tag = some .powerBufferReq ∧
      (s.vt.get .powerBufferReq).grammar = some { dir := .tx, hasMac := true, fields := [] ++ Kind.pbaddr :: [] } ∧
      s.mac.isSome = true ∧ s.f = ([] : List Word).map some ++ some 134209024 :: List.replicate 4 none ∧
      allFit [] [] ∧ Kind.pbaddr ≠ .bool ∧ 16 ^ Kind.pbaddr.width ≤ Kind.pbaddr.wire 134209024 := by
  refine ⟨rfl, rfl, rfl, rfl, trivial, by decide, by decide +kernel⟩

theorem witness_EncodeRefusesWhatHasNoMeaning :
    (let s := base.load { tag := some .pingReq }
     s.tag = some .pingReq ∧ (s.vt.get .pingReq).grammar = none) ∧
      (powerChangeGrammar.hasMac = true ∧ (powerChange (some 1) none).mac = none) ∧
      (powerChangeGrammar.fields = [] ++ Kind.bool :: [] ∧ allFit [] [] ∧
        (powerChange none (some 0)).f = ([] : List Word).map some ++ none :: List.replicate 4 none ∧
        (powerChange (some 2) (some 0)).f = ([] : List Word).map some ++ some 2 :: List.replicate 4 none ∧
        (2 : Word) ≠ 0 ∧ (2 : Word) ≠ 1) :=
  ⟨⟨rfl, rfl⟩, ⟨rfl, rfl⟩, rfl, trivial, rfl, rfl, by decide, by decide⟩

/-- A grammar whose frame no buffer holds. -/
def longGrammar : Grammar := { dir := .both, hasMac := false, fields := List.replicate Config.lMax (.u .w2) }

/-- A message of it, every field 0. -/
def longMessage : State :=
  { base with
    tag := some .pingReq
    vt := TagTable.ofFn (variantRow (fun _ => some longGrammar) (fun _ => none))
    f := (List.replicate Config.lMax 0).map some }

theorem longText (n : Nat) :
    allFit (List.replicate n (.u .w2)) (List.replicate n 0) ∧
      (payloadText (List.replicate n (.u .w2)) (List.replicate n 0)).length = 2 * n := by
  induction n with
  | zero => exact ⟨trivial, rfl⟩
  | succ n ih =>
    refine ⟨⟨by unfold Kind.fits; decide +kernel, ih.1⟩, ?_⟩
    have h : payloadText (List.replicate (n + 1) (.u .w2)) (List.replicate (n + 1) 0) =
        Kind.text (.u .w2) 0 ++ payloadText (List.replicate n (.u .w2)) (List.replicate n 0) := rfl
    have h2 : (Kind.text (.u .w2) 0).length = 2 := rfl
    rw [h, List.length_append, h2, ih.2]
    omega

theorem witness_EncodeRefusesWhatHasNoMeaning_tooLong :
    let s := longMessage
    s.tag = some .pingReq ∧ (s.vt.get .pingReq).grammar = some longGrammar ∧
      (longGrammar.hasMac = true → s.mac.isSome = true) ∧ s.f = (List.replicate Config.lMax 0).map some ++ [] ∧
      allFit longGrammar.fields (List.replicate Config.lMax 0) ∧
      Config.lMax < (outboundBody (s.reg.get .pingReq) (s.vt.get .pingReq).seqTx s.seq
        (if longGrammar.hasMac then s.mac else none)
        (payloadText longGrammar.fields (List.replicate Config.lMax 0))).length + 4 := by
  refine ⟨rfl, rfl, (by intro h; cases h), (List.append_nil _).symm, (longText _).1, ?_⟩
  simp only [outboundBody, List.length_append, longGrammar, (longText _).2]
  omega

theorem witness_OutboundFrameLengthsAreEven :
    VariantTable.wf 5 closedTable = true ∧
      ∃ t, exec .frmEncode (powerChange (some 1) (some 0)) = .next t ∧ t.st = .parsed := by
  refine ⟨by decide +kernel, ?_⟩
  have h : gives (exec .frmEncode (powerChange (some 1) (some 0))) (fun t => t.st == .parsed) = true := by decide +kernel
  obtain ⟨t, ht, hp⟩ := gives_next h
  exact ⟨t, ht, by simpa using hp⟩

/-- The grammar of `SENSE_REPORT_REQ` (44_payload_grammars.md R223). -/
def senseGrammar : Grammar := { dir := .both, hasMac := true, fields := [.u .w4, .u .w4] }

/-- One frame for every clause, in the order of the statement. -/
theorem witness_ParseReportsTheFirstError :
    ["", "010", "01G5", "0000", "0018", "000D", "01050", "0105000", "0105000Z", "010500031", "01050003F1B", "010500031234",
        "01050003000D6F0000B1B64B7BZE6A7CA3E8", "01050003000D6F0000B1B64B7B2E6A7CF1BZ"].all
        (fun x => decide ((str x).length ≤ 60)) = true ∧
      VariantTable.wf base.f.length base.vt = true ∧ decU (str "01G5") = none ∧
      (decU (str "0000") = some 0 ∧ base.reg.lookup 0 = none) ∧
      (decU (str "0018") = some 0x18 ∧ base.reg.lookup 0x18 = some .roleCallReq ∧
        (base.vt.get .roleCallReq).dir = some .tx) ∧
      (decU (str "000D") = some 0xD ∧ base.reg.lookup 0xD = some .pingReq ∧
        (base.vt.get .pingReq).dir ≠ some .tx ∧ (base.vt.get .pingReq).grammar = none) ∧
      (decU (str "0105") = some 0x105 ∧ base.reg.lookup 0x105 = some .senseReportReq ∧
        (base.vt.get .senseReportReq).grammar = some senseGrammar ∧ senseGrammar.dir = .both) ∧
      (str "010").length = 3 ∧ (str "0105000").length = 7 ∧ decU (str "000Z") = none ∧ decU (str "0003") = some 3 ∧
      (str "01050003F1B").length = 11 ∧
      (str "").length ≠ senseGrammar.explen ∧ allHex (str "000D6F0000B1B64B7BZE6A7C") = false ∧
      ((str "000D6F0000B1B64B7B2E6A7C").length = senseGrammar.explen ∧
        allHex (str "000D6F0000B1B64B7B2E6A7C") = true ∧ decU (str "F1BZ") = none) := by decide +kernel

/-- The same strings are inputs. -/
theorem witness_ParseReportsTheFirstError_input (x : String) (h : (str x).length ≤ 60) :
    (given x).HoldsInput (str x) := holdsInput _ _ h

theorem witness_ParseVerifiesTheChecksum (last : String) (h : last = "F1B2" ∨ last = "F1B3") :
    let x := str ("01050003000D6F0000B1B64B7B2E6A7C" ++ last)
    let s := base.load { ib := x }
    VariantTable.wf s.f.length s.vt = true ∧ s.HoldsInput x ∧ 12 ≤ x.length ∧ decU (x.take 4) = some 0x105 ∧
      s.reg.lookup 0x105 = some .senseReportReq ∧ (s.vt.get .senseReportReq).grammar = some senseGrammar ∧
      senseGrammar.dir = .both ∧ decU ((x.drop 4).take 4) = some 3 ∧
      ((x.drop 8).take (x.length - 12)).length = senseGrammar.explen ∧
      allHex ((x.drop 8).take (x.length - 12)) = true ∧
      ∃ r, decU (x.drop (x.length - 4)) = some r ∧
        (r = (crc16 (x.take (x.length - 4))).toNat ↔ last = "F1B2") := by
  rcases h with rfl | rfl
  · exact ⟨by decide +kernel, holdsInput _ _ (by decide +kernel), by decide +kernel, by decide +kernel, by decide +kernel,
      by decide +kernel, by decide +kernel, by decide +kernel, by decide +kernel, by decide +kernel, 0xF1B2,
      by decide +kernel, by decide +kernel⟩
  · exact ⟨by decide +kernel, holdsInput _ _ (by decide +kernel), by decide +kernel, by decide +kernel, by decide +kernel,
      by decide +kernel, by decide +kernel, by decide +kernel, by decide +kernel, by decide +kernel, 0xF1B3,
      by decide +kernel, by decide +kernel⟩

theorem witness_VariantParseIsFrmParse :
    base.reg.wf = true ∧ (given "010").HoldsInput (str "010") ∧ (given "01G5").HoldsInput (str "01G5") ∧
      (given "0105").HoldsInput (str "0105") ∧
      ((str "010").length < 4 ∧ decU ((str "01G5").take 4) = none ∧
        decU ((str "0105").take 4) = some (base.reg.get .senseReportReq).toNat ∧ 4 ≤ (str "0105").length ∧
        BitVec.ofNat 16 0x105 ≠ base.reg.get .pingReq) :=
  ⟨by decide +kernel, holdsInput _ _ (by decide +kernel), holdsInput _ _ (by decide +kernel),
    holdsInput _ _ (by decide +kernel), by decide +kernel⟩

/-- The clauses of `MSG.DECODE`; the codes' rows are those of witness_ParseReportsTheFirstError. -/
theorem witness_MsgDecodeExtractsTheFields :
    VariantTable.wf base.f.length base.vt = true ∧ (given "010").HoldsInput (str "010") ∧
      (given "01G5").HoldsInput (str "01G5") ∧ (given "0105").HoldsInput (str "0105") ∧
      (given "0105000D6F0000B1B64B7B2E6A7C").HoldsInput (str "0105000D6F0000B1B64B7B2E6A7C") ∧
      ((str "010").length < 4 ∧ decU ((str "01G5").take 4) = none ∧ decU ((str "0105").take 4) = some 0x105 ∧
        ((str "0105").drop 4).length ≠ senseGrammar.explen ∧
        ((str "0105000D6F0000B1B64B7B2E6A7C").drop 4).length = senseGrammar.explen ∧
        allHex ((str "0105000D6F0000B1B64B7B2E6A7C").drop 4) = true) :=
  ⟨by decide +kernel, holdsInput _ _ (by decide +kernel), holdsInput _ _ (by decide +kernel),
    holdsInput _ _ (by decide +kernel), holdsInput _ _ (by decide +kernel), by decide +kernel⟩

/-- An outbound-only variant, one without a grammar, and an OPEN one whose grammar is supplied, on a payload that matches
and one that does not. -/
theorem witness_VariantDecodeExtractsTheFields :
    VariantTable.wf baseOpen.f.length baseOpen.vt = true ∧ VariantTable.wf base.f.length base.vt = true ∧
      (baseOpen.load { ib := str "000D6F0000B1B64BFF01" }).HoldsInput (str "000D6F0000B1B64BFF01") ∧
      (baseOpen.load { ib := str "" }).HoldsInput (str "") ∧
      ((base.vt.get .sleepSetReq).dir = some .tx ∧ (base.vt.get .pingReq).dir ≠ some .tx ∧
        (base.vt.get .pingReq).grammar = none ∧ (baseOpen.vt.get .pingReq).grammar = some suppliedGrammar ∧
        suppliedGrammar.dir = .both ∧ (str "000D6F0000B1B64BFF01").length = suppliedGrammar.explen ∧
        allHex (str "000D6F0000B1B64BFF01") = true ∧ (str "").length ≠ suppliedGrammar.explen) :=
  ⟨by decide +kernel, by decide +kernel, holdsInput _ _ (by decide +kernel), holdsInput _ _ (by decide +kernel),
    by decide +kernel⟩

/-- The message that both sides give. -/
def isSense (t : State) : Bool :=
  t.st == .parsed && t.tag == some .senseReportReq && t.code == some 0x105 && t.seq == some 3 && t.mac == some macM &&
    t.f == [some 0x7B2E, some 0x6A7C, none, none, none]

theorem witness_ParseIsDecodeOfThePiecesAndChecksum :
    let x := str "01050003000D6F0000B1B64B7B2E6A7CF1B2"
    let s := base.load { ib := x }
    let s' := base.load { ib := x.take 4 ++ (x.drop 8).take (x.length - 12), seq := some 3 }
    s.HoldsInput x ∧ 12 ≤ x.length ∧ s'.HoldsInput (x.take 4 ++ (x.drop 8).take (x.length - 12)) ∧ s'.reg = s.reg ∧
      s'.vt = s.vt ∧ s'.f.length = s.f.length ∧ s'.seq = (decU ((x.drop 4).take 4)).map (BitVec.ofNat 16) ∧
      gives (exec .frmParse s) isSense = true ∧ gives (exec .msgDecode s') isSense = true :=
  ⟨holdsInput _ _ (by decide +kernel), by decide +kernel, holdsInput _ _ (by decide +kernel), rfl, rfl, rfl,
    by decide +kernel, by decide +kernel, by decide +kernel⟩

theorem witness_ParseOfEncodedFrameIsTheMessage :
    let s := base.load { tag := some .powerChangeReq, seq := some 1, mac := some 0x0123456789ABCDEF, fields := [some 1] }
    let s' := given "001700010123456789ABCDEF01A857"
    s.reg.wf = true ∧ VariantTable.wf s.f.length s.vt = true ∧ s.tag = some .powerChangeReq ∧
      (s.vt.get .powerChangeReq).grammar = some powerChangeGrammar ∧ powerChangeGrammar.dir = .both ∧
      (s.vt.get .powerChangeReq).seqTx = true ∧ s.seq = some 1 ∧ s.mac.isSome = powerChangeGrammar.hasMac ∧
      allFit powerChangeGrammar.fields [1] ∧
      s.f = [(1 : Word)].map some ++ List.replicate (s.f.length - [(1 : Word)].length) none ∧
      (∃ e, exec .frmEncode s = .next e ∧ e.st = .parsed ∧ e.output = some (str "001700010123456789ABCDEF01A857")) ∧
      s'.HoldsInput (str "001700010123456789ABCDEF01A857") ∧ s'.reg = s.reg ∧ s'.vt = s.vt ∧
      s'.f.length = s.f.length := by
  refine ⟨by decide +kernel, by decide +kernel, rfl, rfl, rfl, rfl, rfl, rfl, ?_, rfl, ?_,
    holdsInput _ _ (by decide +kernel), rfl, rfl, rfl⟩
  · simp only [powerChangeGrammar, allFit, and_true]
    exact ⟨by decide +kernel, by decide +kernel⟩
  · have h : gives (exec .frmEncode (base.load
        { tag := some .powerChangeReq, seq := some 1, mac := some 0x0123456789ABCDEF, fields := [some 1] }))
        (fun t => t.st == .parsed && t.output == some (str "001700010123456789ABCDEF01A857")) = true := by decide +kernel
    obtain ⟨t, ht, hp⟩ := gives_next h
    simp only [Bool.and_eq_true, beq_iff_eq] at hp
    exact ⟨t, ht, hp⟩

theorem witness_DecodeOfRenderedPayloadIsTheMessage :
    let s := given "00170123456789ABCDEF01"
    s.reg.wf = true ∧ VariantTable.wf s.f.length s.vt = true ∧
      (s.vt.get .powerChangeReq).grammar = some powerChangeGrammar ∧ powerChangeGrammar.dir = .both ∧
      (some (0x0123456789ABCDEF : Word)).isSome = powerChangeGrammar.hasMac ∧ allFit powerChangeGrammar.fields [1] ∧
      s.HoldsInput (digitString 4 (s.reg.get .powerChangeReq).toNat ++
        ((some (0x0123456789ABCDEF : Word)).map (fun m => digitString 16 m.toNat)).getD [] ++
        payloadText powerChangeGrammar.fields [1]) := by
  refine ⟨by decide +kernel, by decide +kernel, rfl, rfl, rfl, ?_, ?_⟩
  · simp only [powerChangeGrammar, allFit, and_true]
    exact ⟨by decide +kernel, by decide +kernel⟩
  · have h : digitString 4 ((given "00170123456789ABCDEF01").reg.get .powerChangeReq).toNat ++
        ((some (0x0123456789ABCDEF : Word)).map (fun m => digitString 16 m.toNat)).getD [] ++
        payloadText powerChangeGrammar.fields [1] = str "00170123456789ABCDEF01" := by decide +kernel
    rw [h]
    exact holdsInput _ _ (by decide +kernel)

theorem witness_EncodeOfParsedFrameIsTheFrame :
    let x := str "001700010123456789ABCDEF01A857"
    let s := base.load { ib := x }
    s.reg.wf = true ∧ VariantTable.wf s.f.length s.vt = true ∧ s.HoldsInput x ∧
      (∃ p, exec .frmParse s = .next p ∧ p.st = .parsed ∧ p.tag = some .powerChangeReq) ∧
      (s.vt.get .powerChangeReq).grammar = some powerChangeGrammar ∧ (s.vt.get .powerChangeReq).seqTx = true ∧
      upper x = x ∧ powerChangeGrammar.group 0 .bool (x.drop 8) = [0x30, 0x31] := by
  refine ⟨by decide +kernel, by decide +kernel, holdsInput _ _ (by decide +kernel), ?_, rfl, rfl, by decide +kernel,
    by decide +kernel⟩
  have h : gives (exec .frmParse (base.load { ib := str "001700010123456789ABCDEF01A857" }))
      (fun t => t.st == .parsed && t.tag == some .powerChangeReq) = true := by decide +kernel
  obtain ⟨t, ht, hp⟩ := gives_next h
  simp only [Bool.and_eq_true, beq_iff_eq] at hp
  exact ⟨t, ht, hp⟩

theorem witness_AccessorsReadTheFields :
    base.st ≠ .parsed ∧ [Tag.senseReportReq, .broadcastGroupSwitchResp, .powerChangeReq, .roleCallReq, .powerBufferReq,
      .powerCalibrationResp].all (fun t =>
        let s := base.message t 0 (some 0) none [1, 1, 1, 1]
        s.st == .parsed && s.tag == some t && s.fieldReg 0 == some 1) = true := by decide +kernel

theorem witness_EnergiesFollowFromTheFields :
    [(0 : Word), 46875, 65535].all (fun raw =>
      let s := powerInfo [16, 128, 57600, 4294967295, raw]
      s.st == .parsed && s.tag == some .powerInfoResp && s.fieldReg 0 == some 16 && s.fieldReg 1 == some 128 &&
        s.fieldReg 2 == some 57600 && s.fieldReg 3 == some 4294967295 && s.fieldReg 4 == some raw &&
        decide (raw.toNat ≤ 65535)) = true := by decide +kernel

/-- The test state, with inputs waiting, meets the invariant; and `State.reset` does, with the block's own tables. -/
theorem base_inv (q : List HostInput) : ({ base with queue := q } : State).Inv where
  registry := by show testRegistry.wf = true; decide +kernel
  variants := by show VariantTable.wf 5 closedTable = true; decide +kernel
  fieldRegisters := by show 5 ≤ 5; decide
  inputBuffer := Memory.Holds.empty
  outputBuffer := Memory.Holds.empty
  outputFits := Nat.zero_le _
  errorRecord := by show (Option.isSome (none : Option CodecError) = true ↔ Status.unparsed = .failed); decide
  refusalRecord := fun _ => rfl
  resultsWhenParsed := fun _ => rfl
  codeOfTag := fun t c h _ => by cases h

/-- A step of the test state that gives a next state. -/
def waiting : State := { base with queue := [.command [0x0A] { ib := str "000A" }] }

theorem waiting_step : ∃ t, step waiting = .next t := by
  have h : gives (step waiting) (fun _ => true) = true := by decide +kernel
  obtain ⟨t, ht, _⟩ := gives_next h
  exact ⟨t, ht⟩

theorem witness_EveryStepKeepsTheInvariant : waiting.Inv ∧ ∃ t, step waiting = .next t := ⟨base_inv _, waiting_step⟩

theorem witness_NoStepWritesTheTables : ∃ t, step waiting = .next t := waiting_step

/-- Two blocks that differ in every register a command before has left. -/
theorem witness_StepDependsOnItsInputAlone :
    let x : HostInput := .command [0x0A] { ib := str "000A" }
    let s' := { powerInfo [1, 2, 3, 4, 5] with crc := 7, val := some 1, queue := [x, .reset] }
    waiting.queue = x :: [] ∧ s'.queue = x :: [.reset] ∧ s'.reg = waiting.reg ∧ s'.vt = waiting.vt ∧
      s'.f.length = waiting.f.length ∧ s' ≠ waiting := by
  refine ⟨rfl, rfl, rfl, rfl, rfl, fun h => ?_⟩
  have := congrArg State.crc h
  revert this
  decide

/-- A command that ends `PARSED`, one that ends `FAILED`, and one that is refused. -/
theorem witness_EveryCommandEndsInAResultAnErrorOrARefusal :
    gives (exec .hexDecu (given "F")) (fun t => t.st == .parsed) = true ∧
      gives (exec .hexDecu (given "G")) (fun t => t.st == .failed) = true ∧
      gives (exec .hexDecf32 (given "F")) (fun t => t.st == .unparsed) = true := by decide +kernel

/-- A power-buffer message whose address overflows its field. -/
def overflowing : State := base.load { tag := some .powerBufferReq, mac := some 0, fields := [some 134209024] }

/-- Every error, from every command of its row of the table. -/
theorem witness_ErrorsAreRaisedByTheirCommands :
    [(Instr.hexDecu, given "G", (1 : BitVec 3)), (.hexDecf32, given "GGGGGGGG", 1), (.hexDecds, given "GG", 1),
      (.hexDecdm, given "GGGG", 1), (.hexDecmac, given "GGGGGGGGGGGGGGGG", 1), (.regFromcode, given "01G5", 1),
      (.frmParse, given "", 1), (.msgDecode, given "01G5", 1),
      (.hexEncu, base.load { val := some 16, w := some 1 }, 2), (.hexEncds, base.load { val := some 256 }, 2),
      (.hexEncdm, base.load { val := some 65536 }, 2), (.frmEncode, overflowing, 2),
      (.frmParse, given "010500031234", 3), (.msgDecode, given "0105", 3), (.regFromcode, given "0000", 4),
      (.frmParse, given "0000", 4), (.msgDecode, given "0000", 4),
      (.frmParse, given "01050003000D6F0000B1B64B7B2E6A7CF1B3", 5)].all
      (fun (i, s, k) => i.variant == none && gives (exec i s) (fun t => (t.err.map CodecError.kind) == some k)) = true := by
  decide +kernel

/-- The fields that an error names, and the forms of a variant. -/
theorem witness_ErrorFieldsNameWhatWasRead :
    [(Instr.hexDecu, given "G", CodecError.malformedHex .value), (.regFromcode, given "01G5", .malformedHex .typeCode),
      (.msgDecode, given "01G5", .malformedHex .typeCode), (.frmParse, given "0105000Z", .malformedHex .seq),
      (.senseReportReq .parse, given "010500031", .malformedHex .crc),
      (.hexEncds, base.load { val := some 256 }, .fieldOverflow .value),
      (.frmEncode, overflowing, .fieldOverflow (.payload 0)),
      (.powerBufferReq .encode, overflowing, .fieldOverflow (.payload 0)),
      (.senseReportReq .decode, given "", .payloadMismatch 0x0105 [16, 4, 4] [])].all
      (fun (i, s, e) => gives (exec i s) (fun t => t.err == some e)) = true := by decide +kernel

/-- A refusal of every unit, and of a variant's own form. -/
theorem witness_RefusalWritesNothing :
    [(Instr.hexEncu, base), (.hexDecf32, given "F"), (.regTocode, base), (.frmEncode, base), (.frmParse, given "000D"),
      (.msgDecode, given "010"), (.pingReq .encode, base), (.pingReq .parse, given "0105"), (.pingReq .decode, given "")].all
      (fun (i, s) => gives (exec i s) (fun t => t.st == .unparsed)) = true := by decide +kernel

/-- For every instruction family of the clauses, a command that fails. -/
theorem witness_FailureLeavesNoResult :
    [(Instr.frmParse, given ""), (.regFromcode, given "FFFF"), (.msgDecode, given "FFFF"), (.hexDecu, given "G"),
      (.hexDecf32, given "GGGGGGGG"), (.hexDecds, given "GG"), (.hexDecdm, given "GGGG"),
      (.hexDecmac, given "GGGGGGGGGGGGGGGG"), (.hexEncds, base.load { val := some 256 }),
      (.powerBufferReq .encode, overflowing)].all
      (fun (i, s) => gives (exec i s) (fun t => t.st == .failed)) = true := by decide +kernel

/-- For the frame, one that computes no checksum and one that does. -/
theorem witness_EveryCommandKeepsItsFrame :
    gives (exec .hexDecu (given "F")) (fun _ => true) = true ∧ gives (exec .crcCompute (given "F")) (fun _ => true) = true ∧
      Instr.hexDecu ≠ .crcCompute ∧ Instr.hexDecu ≠ .frmEncode ∧ Instr.hexDecu ≠ .frmParse ∧
      Tag.all.all (fun u => Instr.hexDecu != u.instr .encode && Instr.hexDecu != u.instr .parse) = true := by
  decide +kernel

theorem witness_OnlyResultsHoldValues :
    [(Instr.hexDecu, given "F"), (.hexDecf32, given "00000000"), (.hexDecds, given "00"), (.hexDecdm, given "0000"),
      (.hexDecmac, given "0000000000000000"), (.hexEncu, base.load { val := some 0, w := some 1 }),
      (.hexEncf32, base.load { val := some 0 }), (.hexEncds, base.load { val := some 0 }),
      (.hexEncdm, base.load { val := some 0 }), (.hexEncmac, base.load { val := some 0 }),
      (.crcCompute, given ""), (.regFromcode, given "000D"), (.regTocode, base.load { tag := some .pingReq }),
      (.frmEncode, powerChange (some 1) (some 0)), (.powerChangeReq .encode, powerChange (some 1) (some 0)),
      (.frmParse, given "00060009000D6F0000B1B64B466C"), (.msgDecode, given "0006000D6F0000B1B64B"),
      (.senseReportReq .parse, given "01050003000D6F0000B1B64B7B2E6A7CF1B2"),
      (.senseReportReq .decode, given "000D6F0000B1B64B7B2E6A7C")].all
      (fun (i, s) => gives (exec i s) (fun t => t.st == .parsed)) = true := by decide +kernel

/-- For every instruction, an input record that is well-formed for it, when every OPEN grammar is supplied: the least one of
log 1, and for a frame of a variant its type code alone. -/
theorem witness_WellFormedCommandsComplete :
    VariantTable.wf baseOpen.f.length baseOpen.vt = true ∧
      ([Instr.hexEncu, .hexDecu, .hexEncf32, .hexDecf32, .hexEncds, .hexDecds, .hexEncdm, .hexDecdm, .hexEncmac, .hexDecmac,
          .crcCompute, .regFromcode, .regTocode, .frmEncode, .frmParse, .msgDecode] ++
        Tag.all.flatMap (fun t => [t.instr .encode, t.instr .parse, t.instr .decode])).all
        (fun i => i.wf baseOpen.reg baseOpen.vt baseOpen.f.length (leastOperands baseOpen.reg i)) = true := by
  decide +kernel

theorem witness_StringsLongerThanTheBufferAreRefused :
    Config.lMax < ({ base with ilen := Config.lMax + 1 } : State).ilen := Nat.lt_succ_self _

/-- A record that is too wide, every word that cannot be given, and a step that is safe. -/
theorem witness_StepsStopOnlyForInputsThatCannotBeGiven :
    (let o : Operands := { fields := List.replicate 6 none }
     step { base with queue := [.command [0x0A] o] } = .refused .noFieldRegister) ∧
      step { base with queue := [.command [0x10] {}] } = .refused .noSuchWord ∧ waiting.Safe :=
  ⟨rfl, rfl, waiting_step⟩

end Sys2Proof.Tests
end

section
/-! PROOFS. Noninterference (10_state.md R21). A command reads nothing of a state that its own start discards, so that
it can be run from the state with all that discarded (`State.sampled`); and of two states given the same input record
this is the same state. -/

namespace Sys2Proof.Machine

/-- What a command can read of the state it is given: `ST`, `ERR`, the record of a refusal and the output buffer, which
its start discards (43_framing.md R173), the CRC register and the inputs still to come are set aside. -/
def State.sampled (s : State) : State :=
  { s with st := .unparsed, err := none, refusal := none, crc := 0, ob := [], olen := 0, queue := [] }

/-- After its start a command looks the same from a state and from what it can read of it. -/
theorem observable_start_sampled (k : Kept) (s : State) : (s.sampled.start k).observable = (s.start k).observable := rfl

/-- The same input record leaves the same to be read, whatever the registers and buffers held before. -/
theorem sampled_load_congr {s s' : State} (hreg : s'.reg = s.reg) (hvt : s'.vt = s.vt)
    (hf : s'.f.length = s.f.length) (o : Operands) : (s'.load o).sampled = (s.load o).sampled := by
  simp [State.sampled, State.load, hreg, hvt, hf]

theorem observable_hostReset_congr {s s' : State} (hreg : s'.reg = s.reg) (hvt : s'.vt = s.vt)
    (hf : s'.f.length = s.f.length) : s'.hostReset.observable = s.hostReset.observable := by
  simp [State.observable, State.hostReset, hreg, hvt, hf]

/-! ### What the host sees of the writes of a command -/

theorem observable_after_congr {s0 s0' : State} (h : s0'.observable = s0.observable) (e : Stop) :
    (e.after s0').observable = (e.after s0).observable := by
  cases e with
  | raise e => exact congrArg (State.fail e) h
  | refuse r => exact congrArg (State.refused r) h

/-- Two commands that make the same checks look the same at their end when their starts and their writes do. -/
theorem observed_finish_congr {α : Type} {s0 s0' : State} {x : Except Stop α} {k k' : α → State}
    (h : s0'.observable = s0.observable) (hk : ∀ a, (k' a).observable = (k a).observable) :
    observed (finish s0' x k') = observed (finish s0 x k) := by
  cases x with
  | ok a => exact congrArg Host.Outcome.next (hk a)
  | error e => exact congrArg Host.Outcome.next (observable_after_congr h e)

@[simp] theorem observable_reg (s : State) : s.observable.reg = s.reg := rfl

theorem observable_identify (c : BitVec 16) (s0 : State) :
    (identify c s0).observable = identify c s0.observable := by
  unfold identify
  rw [observable_reg]
  split <;> rfl

/-- Every outcome of the last check of a parse overwrites `CRC`, which the host does not see. -/
theorem observable_verify (m : InboundFrame) (s0 : State) :
    (verify m s0).observable = (verify m s0.observable).observable := by
  unfold verify
  split <;> rfl

/-! ### Every command reads only what is sampled -/

theorem parseFrame_sampled (select : BitVec 16 → Except Stop (Tag × Grammar)) (s : State) :
    observed (parseFrame select s.sampled) = observed (parseFrame select s) :=
  observed_finish_congr rfl fun m => by
    rw [observable_verify, observable_start_sampled, ← observable_verify]

theorem execVariant_sampled (t : Tag) (op : MsgOp) (s : State) :
    observed (execVariant t op s.sampled) = observed (execVariant t op s) := by
  cases op with
  | encode => exact observed_finish_congr rfl fun _ => rfl
  | parse => exact parseFrame_sampled (selectOnly s.reg s.vt t) s
  | decode => exact observed_finish_congr rfl fun _ => rfl

theorem hexEncode_sampled (n : Nat) (pick : Word → Nat) (s : State) :
    observed (hexEncode n pick s.sampled) = observed (hexEncode n pick s) :=
  observed_finish_congr rfl fun _ => rfl

theorem hexDecode_sampled (n : Nat) (s : State) : observed (hexDecode n s.sampled) = observed (hexDecode n s) :=
  observed_finish_congr rfl fun _ => rfl

theorem exec_sampled (i : Instr) (s : State) : observed (exec i s.sampled) = observed (exec i s) := by
  rcases i.command_or_variant with hi | ⟨t, op, rfl⟩
  · cases i
    case hexEncf32 | hexEncds | hexEncdm | hexEncmac => exact hexEncode_sampled _ _ s
    case hexDecf32 | hexDecds | hexDecdm | hexDecmac => exact hexDecode_sampled _ s
    case hexEncu | hexDecu | crcCompute | regTocode | frmEncode | msgDecode =>
      exact observed_finish_congr rfl fun _ => rfl
    case regFromcode =>
      exact observed_finish_congr rfl fun c => by
        rw [observable_identify, observable_start_sampled, ← observable_identify]
    case frmParse => exact parseFrame_sampled (dispatch s.reg s.vt) s
    all_goals exact absurd hi (by simp [Instr.variant])
  · rw [exec_instr, exec_instr]
    exact execVariant_sampled t op s

theorem badWord_sampled (e : DecodeError) (s : State) : observed (badWord e s.sampled) = observed (badWord e s) := by
  cases e with
  | length _ | command _ | msgOp _ => rfl
  | typeField op | unknownType op _ => cases op <;> rfl

/-! ### One input of the host -/

theorem runCommand_congr {s s' : State} (hreg : s'.reg = s.reg) (hvt : s'.vt = s.vt)
    (hf : s'.f.length = s.f.length) (word : List Byte) (o : Operands) :
    observed (runCommand word o s') = observed (runCommand word o s) := by
  have hload := sampled_load_congr hreg hvt hf o
  unfold runCommand
  rw [hreg, hf]
  split
  · rfl
  · split
    · rw [← exec_sampled, hload, exec_sampled]
    · rw [← badWord_sampled, hload, badWord_sampled]

theorem runInput_congr {s s' : State} (hreg : s'.reg = s.reg) (hvt : s'.vt = s.vt)
    (hf : s'.f.length = s.f.length) (x : HostInput) : observed (runInput x s') = observed (runInput x s) := by
  cases x with
  | command word o => exact runCommand_congr hreg hvt hf word o
  | reset => exact congrArg Host.Outcome.next (observable_hostReset_congr hreg hvt hf)

theorem step_of_queue_cons {s : State} {x : HostInput} {rest : List HostInput} (h : s.queue = x :: rest) :
    step s = runInput x { s with queue := rest } := by
  rw [step, h]

/-- Settles O45: both steps run the same input, and a command reads of the state only what the input record and the
tables decide. -/
theorem stepDependsOnItsInputAlone : Obligations.StepDependsOnItsInputAlone := by
  intro s s' x rest rest' hq hq' hreg hvt hf
  rw [step_of_queue_cons hq, step_of_queue_cons hq']
  exact runInput_congr (s := { s with queue := rest }) (s' := { s' with queue := rest' }) hreg hvt hf x

end Sys2Proof.Machine
end

section
/-! PROOFS. Reads of a group narrower or wider than the group that was written (20_memory.md R55): the digits of a value
split at any position into the digits of its quotient and the digits of its remainder. -/

namespace Sys2Proof

theorem encU_eq_some {v w : Nat} {s : List Byte} : encU v w = some s ↔ v < 16 ^ w ∧ s = hexDigits w v := by
  by_cases h : v < 16 ^ w
  · simp [encU, h, Nat.not_le.mpr h, eq_comm]
  · simp [encU, h, Nat.not_lt.mp h]

/-- The first `n` of `n + k` digits are those of the quotient by `16^k`, the rest are the digits of the value itself. -/
theorem hexDigits_add (n k v : Nat) : hexDigits (n + k) v = hexDigits n (v / 16 ^ k) ++ hexDigits k v := by
  induction n with
  | zero => simp [hexDigits]
  | succ n ih =>
    have hd : v / 16 ^ (n + k) = v / 16 ^ k / 16 ^ n := by
      rw [Nat.div_div_eq_div_mul, ← Nat.pow_add, Nat.add_comm k n]
    rw [Nat.add_right_comm, hexDigits, hexDigits, ih, hd, List.cons_append]

theorem hexDigits_take (n k v : Nat) : (hexDigits (n + k) v).take n = hexDigits n (v / 16 ^ k) := by
  rw [hexDigits_add, List.take_left' (hexDigits_length n _)]

theorem hexDigits_drop (n k v : Nat) : (hexDigits (n + k) v).drop n = hexDigits k v := by
  rw [hexDigits_add, List.drop_left' (hexDigits_length n _)]

/-- The value of a string followed by `w` digits. -/
theorem hexValue_append_hexDigits (s : List Byte) (w v : Nat) :
    hexValue (s ++ hexDigits w v) = hexValue s * 16 ^ w + v % 16 ^ w := by
  rw [hexValue, List.foldl_append, foldl_hexDigits]
  rfl

/-- A read of `n` digits from position `p` of the `w` digits of `v`. -/
theorem decU_take_drop_hexDigits {v w p n : Nat} (hn : 1 ≤ n) (h : p + n ≤ w) :
    decU (((hexDigits w v).drop p).take n) = some (v / 16 ^ (w - p - n) % 16 ^ n) := by
  obtain ⟨k, rfl⟩ := Nat.exists_eq_add_of_le h
  have hk : p + n + k - p - n = k := by omega
  rw [hk, Nat.add_assoc, hexDigits_drop, hexDigits_take, decU_hexDigits (by omega)]

/-- A read of two adjacent fields as one group. -/
theorem decU_hexDigits_append {v v' w w' : Nat} (hv : v < 16 ^ w) (hv' : v' < 16 ^ w') (h : 1 ≤ w + w') :
    decU (hexDigits w v ++ hexDigits w' v') = some (v * 16 ^ w' + v') := by
  have h0 : hexDigits w v ++ hexDigits w' v' ≠ [] := by
    rw [← List.length_pos_iff, List.length_append, hexDigits_length, hexDigits_length]
    exact h
  rw [decU_of_allHex h0 (by simp), hexValue_append_hexDigits, hexValue_hexDigits, Nat.mod_eq_of_lt hv,
    Nat.mod_eq_of_lt hv']

/-- Settles O12: the digits split at any position, and the two halves of a 32-bit value are its halves by
`decU_take_drop_hexDigits`. -/
theorem narrowReadsSeeTheirDigits : Obligations.NarrowReadsSeeTheirDigits := by
  refine ⟨fun v w p n s hs hn h => ?_, fun v v' w w' s s' hs hs' h => ?_, fun v s hs => ?_⟩
  · obtain ⟨-, rfl⟩ := encU_eq_some.mp hs
    exact decU_take_drop_hexDigits hn h
  · obtain ⟨hv, rfl⟩ := encU_eq_some.mp hs
    obtain ⟨hv', rfl⟩ := encU_eq_some.mp hs'
    exact decU_hexDigits_append hv hv' h
  · obtain ⟨-, rfl⟩ := encU_eq_some.mp hs
    have hhigh : decU ((hexDigits 8 v.toNat).take 4) = some (v.toNat / 16 ^ 4 % 16 ^ 4) :=
      decU_take_drop_hexDigits (p := 0) (n := 4) (by decide) (by decide)
    have hlow : decU ((hexDigits 8 v.toNat).drop 4) = some (v.toNat % 16 ^ 4) := by
      rw [hexDigits_drop 4 4, decU_hexDigits (by decide)]
    simp [hhigh, hlow, BitVec.extractLsb'_toNat, Nat.shiftRight_eq_div_pow]

end Sys2Proof
end

section
/-! PROOFS. The constant tables (20_memory.md R66): every end of a command, every outcome of a word that cannot be run
and a reset of the host leave `REG`, `VT` and the number of field registers as they were. -/

namespace Sys2Proof.Machine

/-- What is fixed when the block is built: the registry, the variant table and the number of field registers. -/
def State.tables (s : State) : Registry × VariantTable × Nat := (s.reg, s.vt, s.f.length)

theorem State.tables_eq {s t : State} :
    t.tables = s.tables ↔ t.reg = s.reg ∧ t.vt = s.vt ∧ t.f.length = s.f.length := by
  simp [State.tables]

@[simp] theorem State.start_tables (k : Kept) (s : State) : (s.start k).tables = s.tables := by
  simp [State.tables]

@[simp] theorem State.fail_tables (e : CodecError) (s : State) : (s.fail e).tables = s.tables := rfl

@[simp] theorem State.hostReset_tables (s : State) : s.hostReset.tables = s.tables := by
  simp [State.tables]

theorem State.load_tables {o : Operands} {s : State} (h : o.fields.length ≤ s.f.length) :
    (s.load o).tables = s.tables := by
  simp [State.tables, h]

theorem Ends.tables {s t : State} (h : Ends s t) : t.tables = s.tables := by
  cases h with
  | parsed _ _ hf _ | decoded _ _ _ hf => simp [State.tables, hf]
  | _ => simp [State.tables]

theorem badWord_tables {e : DecodeError} {s t : State} (h : badWord e s = .next t) : t.tables = s.tables := by
  cases e with
  | length _ | command _ | msgOp _ => cases h
  | typeField op | unknownType op _ =>
    cases op with
    | encode => cases h
    | parse | decode => cases h; simp

theorem runCommand_tables {word : List Byte} {o : Operands} {s t : State} (h : runCommand word o s = .next t) :
    t.tables = s.tables := by
  unfold runCommand at h
  split at h
  next => cases h
  next hw =>
    have hload : (s.load o).tables = s.tables := State.load_tables (Nat.le_of_not_lt hw)
    split at h
    · exact (exec_ends h).tables.trans hload
    · exact (badWord_tables h).trans hload

theorem runInput_tables {x : HostInput} {s t : State} (h : runInput x s = .next t) : t.tables = s.tables := by
  cases x with
  | command word o => exact runCommand_tables h
  | reset => cases h; exact s.hostReset_tables

/-- Settles O44: a step with no input changes nothing, and one with an input keeps the tables by `runInput_tables`. -/
theorem noStepWritesTheTables : Obligations.NoStepWritesTheTables := by
  intro s t h
  rw [← State.tables_eq]
  unfold step at h
  split at h
  · cases h; rfl
  · exact (runInput_tables h).trans rfl

end Sys2Proof.Machine
end

section
/-! PROOFS. The kinds of payload fields (30_encoding.md R73 to R79). The codec's loops compute the digits and the number
of 20_memory.md R53 (`digitString`, `digitValue`); every kind but `BOOL` encodes its wire value in its width, and every
kind but `BOOL` and `PBADDR` decodes to the number its digits stand for. -/

namespace Sys2Proof

theorem hexDigits_eq_digitString (w v : Nat) : hexDigits w v = digitString w v := by
  induction w with
  | zero => rfl
  | succ w ih =>
    rw [hexDigits, ih, digitString, digitString, List.range_succ_eq_map, List.map_cons, List.map_map]
    congr 1
    refine List.map_congr_left fun i _ => ?_
    have hi : w - 1 - i = w + 1 - 1 - (i + 1) := by omega
    simp only [Function.comp, hi]

theorem digitValue_append_singleton (s : List Byte) (c : Byte) :
    digitValue (s ++ [c]) = hexVal c + 16 * digitValue s := by
  simp [digitValue, Nat.ofDigits_cons]

theorem hexValue_append_singleton (s : List Byte) (c : Byte) :
    hexValue (s ++ [c]) = hexVal c + 16 * hexValue s := by
  simp [hexValue, Nat.add_comm, Nat.mul_comm]

theorem hexValue_eq_digitValue (s : List Byte) : hexValue s = digitValue s := by
  induction s using List.reverseRecOn with
  | nil => rfl
  | append_singleton s c ih =>
    rw [hexValue_append_singleton, digitValue_append_singleton, ih]

theorem allHex_iff {s : List Byte} : allHex s = true ↔ ∀ c ∈ s, isHex c = true := by
  simp [allHex]

theorem Kind.width_le (k : Kind) : k.width ≤ 16 := by
  cases k with
  | u w => cases w <;> decide
  | _ => decide

theorem Kind.fits_bool_iff {v : Word} : Kind.bool.fits v ↔ v = 0 ∨ v = 1 := by
  constructor
  · rintro ⟨h, -⟩
    simpa [Kind.admits] using h
  · rintro (rfl | rfl) <;> exact ⟨rfl, by decide⟩

theorem Kind.fits_iff {k : Kind} (h : k ≠ .bool) {v : Word} : k.fits v ↔ k.wire v < 16 ^ k.width := by
  have hadm : k.admits v = true := by
    cases k with
    | bool => exact absurd rfl h
    | _ => rfl
  simp [Kind.fits, hadm]

theorem Kind.valueOf_eq {k : Kind} (hb : k ≠ .bool) (hp : k ≠ .pbaddr) (s : List Byte) :
    k.valueOf s = BitVec.ofNat 64 (digitValue s) := by
  cases k with
  | bool => exact absurd rfl hb
  | pbaddr => exact absurd rfl hp
  | _ => rfl

/-- The number that a group of hex digits of a kind's width stands for is not cut by the 64-bit register. -/
theorem digitValue_lt_of_width {k : Kind} {s : List Byte} (hlen : s.length = k.width)
    (hs : ∀ c ∈ s, isHex c = true) : digitValue s < 2 ^ 64 := by
  calc digitValue s = hexValue s := (hexValue_eq_digitValue s).symm
    _ < 16 ^ s.length := hexValue_lt (allHex_iff.mpr hs)
    _ ≤ 16 ^ 16 := Nat.pow_le_pow_right (by decide) (hlen ▸ k.width_le)

namespace Machine

theorem encodeField_of_lt {v w : Nat} (fld : ErrField) (h : v < 16 ^ w) :
    encodeField fld v w = .ok (digitString w v) :=
  encodeField_eq_ok.mpr ⟨h, (hexDigits_eq_digitString w v).symm⟩

/-- Every kind but `BOOL` is encoded as its wire value in its width. -/
theorem encKind_eq_encodeField {k : Kind} (h : k ≠ .bool) (j : Nat) (v : Word) :
    encKind j k v = encodeField (.payload j) (k.wire v) k.width := by
  cases k with
  | bool => exact absurd rfl h
  | _ => rfl

theorem encKind_of_fits {k : Kind} {v : Word} (j : Nat) (h : k.fits v) : encKind j k v = .ok (k.text v) := by
  by_cases hb : k = .bool
  · subst hb
    rcases Kind.fits_bool_iff.mp h with rfl | rfl <;> rfl
  · rw [encKind_eq_encodeField hb, encodeField_of_lt _ ((Kind.fits_iff hb).mp h)]
    rfl

theorem encKind_overflow {k : Kind} {v : Word} (j : Nat) (hb : k ≠ .bool) (h : ¬ k.fits v) :
    encKind j k v = raise (.fieldOverflow (.payload j)) := by
  rw [Kind.fits_iff hb, Nat.not_lt] at h
  rw [encKind_eq_encodeField hb, encodeField_overflow _ h]
  rfl

theorem encKind_bool_of_ne {v : Word} (j : Nat) (h0 : v ≠ 0) (h1 : v ≠ 1) :
    encKind j .bool v = refuse (.boolValue j) := by
  rw [encKind, if_neg h1, if_neg h0]

/-- Every kind but `BOOL` and `PBADDR` is decoded as a number. -/
theorem decKind_eq_decWord {k : Kind} (hb : k ≠ .bool) (hp : k ≠ .pbaddr) (s : List Byte) :
    decKind k s = decWord s := by
  cases k with
  | bool => exact absurd rfl hb
  | pbaddr => exact absurd rfl hp
  | _ => rfl

theorem decKind_of_digits {k : Kind} {s : List Byte} (hp : k ≠ .pbaddr) (hlen : s.length = k.width)
    (hs : ∀ c ∈ s, isHex c = true) : decKind k s = some (k.valueOf s) := by
  by_cases hb : k = .bool
  · subst hb
    rfl
  · have h0 : s ≠ [] := List.ne_nil_of_length_pos (hlen ▸ Kind.width_pos k)
    rw [decKind_eq_decWord hb hp, Kind.valueOf_eq hb hp, decWord_isSome h0 (allHex_iff.mpr hs),
      hexValue_eq_digitValue]

/-- Settles O23: `encKind_of_fits`, `encKind_overflow` and `decKind_of_digits` are its columns. -/
theorem fieldKindsEncodeAndDecode : Obligations.FieldKindsEncodeAndDecode := by
  refine ⟨⟨rfl, rfl, rfl, rfl⟩, fun _ => rfl, rfl, rfl, rfl, rfl, rfl, rfl, fun j _ _ => encKind_of_fits j,
    fun j _ _ => encKind_overflow j, fun k s hp hlen hs => ⟨decKind_of_digits hp hlen hs, fun hb => ?_⟩, fun _ => rfl⟩
  rw [Kind.valueOf_eq hb hp, BitVec.toNat_ofNat, Nat.mod_eq_of_lt (digitValue_lt_of_width hlen hs)]

/-- Settles O24: the two literal strings, and `encKind_bool_of_ne` for every other value. -/
theorem boolFieldsAreLiteralStrings : Obligations.BoolFieldsAreLiteralStrings := by
  refine ⟨fun _ => ⟨rfl, rfl⟩, fun a b => ?_, fun j _ => encKind_bool_of_ne j, fun _ => rfl⟩
  simp [decKind, trueText]

theorem fits_pbaddr_iff {v : Word} : Kind.pbaddr.fits v ↔ v.toNat ≤ 134209023 := by
  rw [Kind.fits_iff (by decide)]
  simp only [Kind.wire, Kind.width]
  omega

/-- Settles O25: an address fits its field exactly up to the bound (`fits_pbaddr_iff`). -/
theorem powerBufferAddressIsTranslated : Obligations.PowerBufferAddressIsTranslated := by
  refine ⟨fun j v h => ?_, fun j v h => ?_, fun _ => rfl, ?_⟩
  · exact encKind_of_fits j (fits_pbaddr_iff.mpr h)
  · exact encKind_overflow j (by decide) fun hfit => absurd (fits_pbaddr_iff.mp hfit) (Nat.not_le.mpr h)
  · exact (encKind_of_fits 0 (fits_pbaddr_iff.mpr (by decide))).trans (congrArg Except.ok (by decide))

end Machine
end Sys2Proof
end

section
/-! PROOFS. Patterns and lengths (30_encoding.md R81, R82): what the check of a variant table fixes of its rows, the only
payload length that matches a pattern, and the length of an outbound frame. -/

namespace Sys2Proof

/-- A row of a variant table is the row of 30_encoding.md R80, with its own content in the OPEN cells. -/
theorem VariantTable.get_of_wf {n : Nat} {vt : VariantTable} (h : vt.wf n = true) (t : Tag) :
    vt.get t = variantRow (fun _ => (vt.get t).grammar) (fun _ => (vt.get t).fields) t := by
  have hrow := List.all_eq_true.mp h t t.mem_all
  simp only [VtRow.ok, Bool.and_eq_true, beq_iff_eq] at hrow
  obtain ⟨⟨hrow, -⟩, -⟩ := hrow
  exact hrow

/-- A grammar that the document gives, and so stands in the table with no OPEN cell supplied, stands in every table. -/
theorem VariantTable.grammar_of_closedTable {n : Nat} {vt : VariantTable} (h : vt.wf n = true) {t : Tag} {g : Grammar}
    (hg : (closedTable.get t).grammar = some g) : (vt.get t).grammar = some g := by
  rw [VariantTable.get_of_wf h t]
  cases t
  case moduleJoinedNetworkReq | nodeAvailableReq | powerBufferReq | powerCalibrationResp | powerChangeReq
      | powerInfoResp | roleCallReq | senseReportReq | broadcastGroupSwitchResp => exact hg
  all_goals cases hg

theorem VariantTable.seqTx_of_wf {n : Nat} {vt : VariantTable} (h : vt.wf n = true) (t : Tag) :
    (vt.get t).seqTx = seqTx t := by
  rw [VariantTable.get_of_wf h t]
  cases t <;> rfl

theorem Kind.two_dvd_width (k : Kind) : 2 ∣ k.width := by
  cases k with
  | u w => cases w <;> decide
  | _ => decide

theorem Grammar.explen_eq (g : Grammar) :
    g.explen = (if g.hasMac then 16 else 0) + (g.fields.map Kind.width).sum := by
  unfold Grammar.explen Grammar.pattern
  split <;> simp

/-- Every group of a payload has an even number of digits. -/
theorem Grammar.two_dvd_explen (g : Grammar) : 2 ∣ g.explen := by
  have hfields : 2 ∣ (g.fields.map Kind.width).sum :=
    List.dvd_sum fun x hx => by
      obtain ⟨k, -, rfl⟩ := List.mem_map.mp hx
      exact k.two_dvd_width
  rw [Grammar.explen_eq]
  split <;> omega

namespace Machine

/-- A frame that passes the checks of a parse holds a payload of the length its variant's grammar asks for. -/
theorem length_of_splitFrame {r : Registry} {vt : VariantTable} {n : Nat} {x : List Byte} {m : InboundFrame} {g : Grammar}
    (hg : (vt.get m.tag).grammar = some g) (h : splitFrame (dispatch r vt) n x = .ok m) :
    x.length = 12 + g.explen := by
  obtain ⟨h12, c, -, -, g', -, hsel, -, hmatch, -⟩ := splitFrame_eq_ok.mp h
  have hg' : (vt.get m.tag).grammar = some g' := (dispatchTag_eq_ok.mp (dispatch_eq_ok.mp hsel).2).2
  obtain rfl : g = g' := Option.some.inj (hg.symm.trans hg')
  have hlen := (matchPayload_eq_ok.mp hmatch).1
  rw [List.length_take, List.length_drop] at hlen
  omega

/-- Settles O21: a payload of another length does not match, and the nine rows stand in every variant table by
`VariantTable.grammar_of_closedTable`. -/
theorem patternsOfTheKnownVariants : Obligations.PatternsOfTheKnownVariants := by
  refine fun n vt hwf => ⟨fun t g hg => ⟨rfl, rfl, fun c p m fs h => ?_, fun c p h => ?_, ?_⟩, fun t p d hrow => ?_⟩
  · exact (matchPayload_eq_ok.mp h).1
  · exact matchPayload_mismatch c (.inl h)
  · rintro r n x m h rfl
    exact length_of_splitFrame hg h
  · simp only [List.mem_cons, Prod.mk.injEq, List.not_mem_nil, or_false] at hrow
    rcases hrow with ⟨rfl, rfl, rfl⟩ | ⟨rfl, rfl, rfl⟩ | ⟨rfl, rfl, rfl⟩ | ⟨rfl, rfl, rfl⟩ | ⟨rfl, rfl, rfl⟩ |
      ⟨rfl, rfl, rfl⟩ | ⟨rfl, rfl, rfl⟩ | ⟨rfl, rfl, rfl⟩ | ⟨rfl, rfl, rfl⟩
    all_goals exact ⟨_, VariantTable.grammar_of_closedTable hwf rfl, rfl, rfl, rfl⟩

/-! ### The length of an outbound frame -/

theorem seqField_length (row : VtRow) (s : State) :
    (seqField row s.seq).length = if row.seqTx = true ∧ s.seqv = true then 4 else 0 := by
  unfold State.seqv
  cases s.seq with
  | none => simp [seqField]
  | some q => cases h : row.seqTx <;> simp [seqField, h]

theorem macField_length {g : Grammar} {m : Option Word} {t : List Byte} (h : macField g m = .ok t) :
    t.length = if g.hasMac then 16 else 0 := by
  unfold macField at h
  split at h
  next hmac =>
    cases m with
    | none => cases h
    | some m => cases h; simp [hmac]
  next hmac => cases h; simp [hmac]

theorem frameBody_length {u : Tag} {s : State} {g : Grammar} {body : List Byte} (hg : (s.vt.get u).grammar = some g)
    (h : frameBody u s = .ok body) :
    body.length = 4 + (if (s.vt.get u).seqTx = true ∧ s.seqv = true then 4 else 0) + g.explen := by
  simp only [frameBody, hg, bind_eq_ok, pure_eq_ok, Except.ok.injEq] at h
  obtain ⟨m, hm, p, hp, -, -, rfl⟩ := h
  simp only [List.length_append, hex16_length, seqField_length, macField_length hm, render_length hp, g.explen_eq]
  omega

@[simp] theorem withCrc_length (body : List Byte) : (withCrc body).length = body.length + 4 := by
  simp [withCrc, crcHex]

theorem after_st_ne_parsed (s0 : State) (e : Stop) : (e.after s0).st ≠ .parsed := by
  cases e <;> simp

/-- A command that ends `PARSED` has made its checks and written its results: after a stop it would be `FAILED` or
`UNPARSED`. -/
theorem finish_parsed {α : Type} {s0 t : State} {x : Except Stop α} {k : α → State}
    (h : finish s0 x k = .next t) (hst : t.st = .parsed) : ∃ a, x = .ok a ∧ t = k a := by
  rcases finish_eq_next.mp h with hok | ⟨e, -, rfl⟩
  · exact hok
  · exact absurd hst (after_st_ne_parsed s0 e)

theorem olen_of_frmEncode {s t : State} {u : Tag} {g : Grammar} (hu : s.tag = some u)
    (hg : (s.vt.get u).grammar = some g) (h : exec .frmEncode s = .next t) (hst : t.st = .parsed) :
    t.olen = 8 + (if (s.vt.get u).seqTx = true ∧ s.seqv = true then 4 else 0) + g.explen := by
  obtain ⟨body, hbody, rfl⟩ := finish_parsed (show finish _ _ _ = _ from h) hst
  obtain ⟨u', hu', hbody⟩ := bind_eq_ok.mp hbody
  obtain rfl : u = u' := Option.some.inj (hu.symm.trans (needValue_eq_ok.mp hu'))
  rw [State.out_olen, withCrc_length, frameBody_length hg hbody]
  omega

/-- Settles O29: the length by `olen_of_frmEncode`, which is even since every group of a payload is. -/
theorem outboundFrameLengthsAreEven : Obligations.OutboundFrameLengthsAreEven := by
  refine ⟨fun s t u g hu hg h hst => ?_, fun n vt hwf t a b hrow => ?_⟩
  · have hlen := olen_of_frmEncode hu hg h hst
    have heven := g.two_dvd_explen
    refine ⟨hlen, ?_⟩
    split at hlen <;> omega
  · simp only [List.mem_cons, Prod.mk.injEq, List.not_mem_nil, or_false] at hrow
    rcases hrow with ⟨rfl, rfl, rfl⟩ | ⟨rfl, rfl, rfl⟩ | ⟨rfl, rfl, rfl⟩ | ⟨rfl, rfl, rfl⟩
    all_goals exact ⟨_, VariantTable.grammar_of_closedTable hwf rfl, rfl, rfl, VariantTable.seqTx_of_wf hwf _⟩

end Machine
end Sys2Proof
end

section
/-! PROOFS. The round trip of the primitive codec (40_hexcodec.md R110). Each hex digit is read and written back in upper
case, and the value of a string splits into the value of all but its last digit and that digit. -/

namespace Sys2Proof

/-- `upper` on one character (40_hexcodec.md R110). -/
def upperChar (c : Byte) : Byte := if 0x61 ≤ c.toNat ∧ c.toNat ≤ 0x66 then c - 0x20 else c

theorem upper_eq_map (s : List Byte) : upper s = s.map upperChar := rfl

theorem upper_append (s t : List Byte) : upper (s ++ t) = upper s ++ upper t := List.map_append

theorem upperChar_eq_self_iff {c : Byte} : upperChar c = c ↔ ¬ (0x61 ≤ c.toNat ∧ c.toNat ≤ 0x66) := by
  unfold upperChar
  split
  next h =>
    refine iff_of_false (fun heq => ?_) (not_not_intro h)
    bv_omega
  next h => exact iff_of_true rfl h

theorem upper_eq_self_iff {s : List Byte} :
    upper s = s ↔ ∀ c ∈ s, ¬ (0x61 ≤ c.toNat ∧ c.toNat ≤ 0x66) := by
  calc upper s = s ↔ s.map upperChar = s.map id := by rw [upper_eq_map, List.map_id]
    _ ↔ ∀ c ∈ s, upperChar c = c := List.map_inj_left
    _ ↔ _ := forall₂_congr fun _ _ => upperChar_eq_self_iff

/-- Reading a digit and writing it again gives its upper case: the three ranges of `isHex`. -/
theorem hexChar_hexVal {c : Byte} (h : isHex c = true) : hexChar (hexVal c) = upperChar c := by
  simp only [isHex, Bool.or_eq_true, Bool.and_eq_true, decide_eq_true_eq] at h
  apply BitVec.eq_of_toNat_eq
  rcases h with (⟨hlo, hhi⟩ | ⟨hlo, hhi⟩) | hlower
  · have hv : hexVal c = c.toNat - 0x30 := if_pos hhi
    rw [hv, hexChar, upperChar, if_pos (by omega), if_neg (by omega), BitVec.toNat_ofNat]
    omega
  · have hv : hexVal c = c.toNat - 0x41 + 10 := by rw [hexVal, if_neg (by omega), if_pos hhi]
    rw [hv, hexChar, upperChar, if_neg (by omega), if_neg (by omega), BitVec.toNat_ofNat]
    omega
  · have hv : hexVal c = c.toNat - 0x61 + 10 := by rw [hexVal, if_neg (by omega), if_neg (by omega)]
    rw [hv, hexChar, upperChar, if_neg (by omega), if_pos hlower]
    bv_omega

/-- The digits of the value of a string of hex digits are that string in upper case. -/
theorem hexDigits_hexValue {s : List Byte} (h : allHex s = true) : hexDigits s.length (hexValue s) = upper s := by
  induction s using List.reverseRecOn with
  | nil => rfl
  | append_singleton s c ih =>
    rw [allHex_append, Bool.and_eq_true] at h
    obtain ⟨hs, hc⟩ := h
    have hc : isHex c = true := by simpa [allHex] using hc
    have hlt := hexVal_lt hc
    have hdiv : (hexVal c + 16 * hexValue s) / 16 ^ 1 = hexValue s := by omega
    have hmod : (hexVal c + 16 * hexValue s) % 16 = hexVal c := by omega
    have hlast : hexDigits 1 (hexVal c + 16 * hexValue s) = upper [c] := by
      simp [hexDigits, hmod, hexChar_hexVal hc, upper_eq_map]
    rw [List.length_append, List.length_singleton, hexValue_append_singleton, hexDigits_add, hdiv, ih hs, hlast,
      upper_append]

theorem encU_hexValue {s : List Byte} (h : allHex s = true) : encU (hexValue s) s.length = some (upper s) :=
  encU_eq_some.mpr ⟨hexValue_lt h, (hexDigits_hexValue h).symm⟩

/-- Settles O11: decoding takes the digits of `v` back to `v` (`decU_hexDigits`), and encoding the value of a string
gives the string in upper case (`encU_hexValue`). -/
theorem hexCodecRoundTrips : Obligations.HexCodecRoundTrips := by
  refine ⟨fun v w hw _ hv => ⟨hexDigits w v, encU_eq_some.mpr ⟨hv, rfl⟩, ?_⟩, fun s hs _ hhex => ?_,
    fun _ => upper_eq_self_iff⟩
  · rw [decU_hexDigits (Nat.ne_of_gt hw), Nat.mod_eq_of_lt hv]
  · have hall : allHex s = true := allHex_iff.mpr hhex
    exact ⟨hexValue s, decU_of_allHex (List.ne_nil_of_length_pos hs) hall, encU_hexValue hall⟩

end Sys2Proof
end

section
/-! PROOFS. The bit step and the two forms of the checksum (41_crc.md R132, R133): each bit of a bit step, and the wide
form of the document, of which only the low 16 bits are the register. -/

namespace Sys2Proof

theorem getLsbD_crcPoly {i : Nat} (h : i < 16) : Config.crcPoly.getLsbD i = (i == 0 || i == 5 || i == 12) := by
  decide +revert

/-- What a bit step adds to the shifted register (41_crc.md R132). -/
def feedback (t : Bool) : BitVec 16 := if t then Config.crcPoly else 0

theorem getLsbD_feedback (t : Bool) {i : Nat} (h : i < 16) :
    (feedback t).getLsbD i = (t && (i == 0 || i == 5 || i == 12)) := by
  cases t with
  | true => exact getLsbD_crcPoly h
  | false => exact BitVec.getLsbD_zero

theorem feedback_xor (t u : Bool) : feedback (t ^^ u) = feedback t ^^^ feedback u := by
  cases t <;> cases u <;> decide

theorem crcBit_eq_xor (c : BitVec 16) (d : Bool) : crcBit c d = c <<< 1 ^^^ feedback (c.getLsbD 15 ^^ d) := by
  unfold crcBit feedback
  split
  · rfl
  · exact BitVec.xor_zero.symm

theorem getLsbD_crcBit (c : BitVec 16) (d : Bool) {i : Nat} (h : i < 16) :
    (crcBit c d).getLsbD i =
      ((decide (1 ≤ i) && c.getLsbD (i - 1)) ^^ ((c.getLsbD 15 ^^ d) && (i == 0 || i == 5 || i == 12))) := by
  have hshift : (c <<< 1).getLsbD i = (decide (1 ≤ i) && c.getLsbD (i - 1)) := by
    simp only [BitVec.getLsbD_shiftLeft, h, decide_true, Bool.true_and, ← decide_not, Nat.not_lt]
  rw [crcBit_eq_xor, BitVec.getLsbD_xor, hshift, getLsbD_feedback _ h]

/-- The polynomial has a constant term, so the last bit of the register tells whether it was added. -/
theorem getLsbD_zero_crcBit (c : BitVec 16) (d : Bool) : (crcBit c d).getLsbD 0 = (c.getLsbD 15 ^^ d) := by
  rw [getLsbD_crcBit c d (by decide)]
  cases c.getLsbD 15 ^^ d <;> rfl

/-- Settles O14: the bits by `getLsbD_crcBit`, the worked values by evaluation. -/
theorem crcBitStepShiftsAndXors : Obligations.CrcBitStepShiftsAndXors :=
  ⟨fun c d _ => getLsbD_crcBit c d, by decide⟩

/-- The low 16 bits of a wide bit step are the bit step of the low 16 bits. -/
theorem ofNat_crcBitWide (c : Nat) (d : Bool) :
    BitVec.ofNat 16 (crcBitWide c d) = crcBit (BitVec.ofNat 16 c) d := by
  have htop : (BitVec.ofNat 16 c).getLsbD 15 = c.testBit 15 := by
    rw [BitVec.getLsbD_ofNat, decide_eq_true (by decide), Bool.true_and]
  have hshift : BitVec.ofNat 16 (2 * c) = BitVec.ofNat 16 c <<< 1 := by
    rw [BitVec.shiftLeft_eq_mul_twoPow]
    bv_omega
  rw [crcBitWide, crcBit, htop, ← hshift]
  split
  · rw [BitVec.ofNat_xor, BitVec.ofNat_toNat, BitVec.setWidth_eq]
  · rfl

/-- One mask at the end of a byte keeps the low 16 bits. -/
theorem crcByteWide_toNat (c : BitVec 16) (b : Byte) : crcByteWide c.toNat b = (crcByte c b).toNat := by
  have hlow := List.foldl_hom (l := [7, 6, 5, 4, 3, 2, 1, 0]) (init := c.toNat) (BitVec.ofNat 16)
    (g₁ := fun c k => crcBitWide c (b.getLsbD k)) (g₂ := fun c k => crcBit c (b.getLsbD k))
    fun c k => (ofNat_crcBitWide c (b.getLsbD k)).symm
  rw [BitVec.ofNat_toNat, BitVec.setWidth_eq] at hlow
  rw [crcByte, hlow, BitVec.toNat_ofNat]
  rfl

/-- Settles O15: the two byte steps agree on a register (`crcByteWide_toNat`), and so along a string. -/
theorem crcMaskedPerByteIsTheSame : Obligations.CrcMaskedPerByteIsTheSame := fun _ =>
  List.foldl_hom BitVec.toNat crcByteWide_toNat

end Sys2Proof
end

section
/-! PROOFS. `CRC.COMPUTE` (41_crc.md R130): an input that `IB` holds passes the one check of the command. -/

namespace Sys2Proof

theorem crc16_append_singleton (x : List Byte) (b : Byte) : crc16 (x ++ [b]) = crcByte (crc16 x) b := by
  simp [crc16]

/-- A zero register stays zero along zero bytes. -/
theorem crc16_replicate_zero_append (n : Nat) (x : List Byte) : crc16 (List.replicate n 0x00 ++ x) = crc16 x := by
  have hbyte : crcByte Config.crcInit 0x00 = Config.crcInit := by decide
  induction n with
  | zero => rfl
  | succ n ih =>
    calc crc16 (List.replicate (n + 1) 0x00 ++ x)
        = (List.replicate n 0x00 ++ x).foldl crcByte (crcByte Config.crcInit 0x00) := rfl
      _ = crc16 (List.replicate n 0x00 ++ x) := by rw [hbyte, crc16]
      _ = crc16 x := ih

theorem crcHex_eq_digitString (x : List Byte) : crcHex x = digitString 4 (crc16 x).toNat :=
  hexDigits_eq_digitString 4 _

namespace Machine

theorem State.HoldsInput.input {s : State} {x : List Byte} (h : s.HoldsInput x) : s.input = .ok x := by
  obtain ⟨hlen, hmax, hread⟩ := h
  exact input_eq_ok.mpr (hlen ▸ ⟨hmax, hread⟩)

/-- What `CRC.COMPUTE` adds to a block whose registers hold no value. -/
theorem out_checksum_start (x : List Byte) (s : State) :
    ((s.start .nothing).checksum x).out (crcHex x) =
      { s.blank with crc := crc16 x, ob := Memory.ofString (digitString 4 (crc16 x).toNat), olen := 4 } := by
  have hf : s.f.map (keepIf false) = List.replicate s.f.length none := List.map_eq_replicate_iff.mpr fun _ _ => rfl
  rw [← crcHex_eq_digitString, ← Memory.writeString_empty, State.blank, ← hf]
  rfl

theorem exec_crcCompute {s : State} {x : List Byte} (h : s.HoldsInput x) :
    exec .crcCompute s = .next { s.blank with
      crc := crc16 x, ob := Memory.ofString (digitString 4 (crc16 x).toNat), olen := 4 } := by
  calc exec .crcCompute s = execCrcCompute s := rfl
    _ = .next (((s.start .nothing).checksum x).out (crcHex x)) := by rw [execCrcCompute, h.input, finish_ok]
    _ = _ := by rw [out_checksum_start]

/-- Settles O16: the state after by `exec_crcCompute`; a computation is a fold that starts at zero. -/
theorem crcComputeIsTotal : Obligations.CrcComputeIsTotal :=
  ⟨rfl, fun _ _ => exec_crcCompute, rfl, crc16_append_singleton, crc16_replicate_zero_append, by decide +kernel⟩

end Machine
end Sys2Proof
end

section
/-! PROOFS. Error detection (41_crc.md R138): the checksum is linear over XOR, and a pattern of at most 16 bits cannot
take a zero register back to zero. -/

namespace Sys2Proof

/-! ### The checksum is linear -/

theorem crcBit_xor (c c' : BitVec 16) (d d' : Bool) :
    crcBit (c ^^^ c') (d ^^ d') = crcBit c d ^^^ crcBit c' d' := by
  have htop : ((c ^^^ c').getLsbD 15 ^^ (d ^^ d')) = ((c.getLsbD 15 ^^ d) ^^ (c'.getLsbD 15 ^^ d')) := by
    rw [BitVec.getLsbD_xor, Bool.xor_assoc, Bool.xor_assoc, Bool.xor_left_comm d]
  rw [crcBit_eq_xor, crcBit_eq_xor, crcBit_eq_xor, htop, feedback_xor, BitVec.shiftLeft_xor_distrib]
  ac_rfl

/-- A step that is linear over XOR makes a computation over a string linear. -/
theorem foldl_zipWith_xor {α : Type} {op : α → α → α} {f : BitVec 16 → α → BitVec 16}
    (hf : ∀ c c' a a', f (c ^^^ c') (op a a') = f c a ^^^ f c' a') {x y : List α} (h : x.length = y.length)
    (c c' : BitVec 16) : (List.zipWith op x y).foldl f (c ^^^ c') = x.foldl f c ^^^ y.foldl f c' := by
  induction x generalizing y c c' with
  | nil =>
    obtain rfl := List.length_eq_zero_iff.mp h.symm
    rfl
  | cons a x ih =>
    cases y with
    | nil => cases h
    | cons b y => rw [List.zipWith_cons_cons, List.foldl_cons, hf, ih (Nat.succ.inj h)]; rfl

/-- The bits of a character in the order in which they enter the register (41_crc.md R131). -/
def inputBits (b : Byte) : List Bool := [7, 6, 5, 4, 3, 2, 1, 0].map b.getLsbD

theorem crcByte_eq_foldl_inputBits (c : BitVec 16) (b : Byte) : crcByte c b = (inputBits b).foldl crcBit c := by
  rw [inputBits, List.foldl_map]
  rfl

theorem inputBits_length (b : Byte) : (inputBits b).length = 8 := rfl

theorem inputBits_xor (a b : Byte) : inputBits (a ^^^ b) = List.zipWith Bool.xor (inputBits a) (inputBits b) := by
  simp [inputBits]

theorem crcByte_xor (c c' : BitVec 16) (a b : Byte) : crcByte (c ^^^ c') (a ^^^ b) = crcByte c a ^^^ crcByte c' b := by
  simp only [crcByte_eq_foldl_inputBits, inputBits_xor]
  exact foldl_zipWith_xor crcBit_xor (inputBits_length a) c c'

theorem crc16_zipWith_xor {x y : List Byte} (h : x.length = y.length) :
    crc16 (List.zipWith (fun a b => a ^^^ b) x y) = crc16 x ^^^ crc16 y :=
  foldl_zipWith_xor crcByte_xor h Config.crcInit Config.crcInit

/-! ### The register before a run of bits that takes it to zero -/

/-- The burst argument: when at most 16 input bits take the register to zero, they are its top bits, and the bits below
are 0. The last bit of every register on the way is 0, so the polynomial is never added. -/
theorem getMsbD_of_foldl_crcBit_eq_zero {ds : List Bool} {c : BitVec 16} (hlen : ds.length ≤ 16)
    (h : ds.foldl crcBit c = 0) (i : Nat) : c.getMsbD i = ds.getD i false := by
  induction ds generalizing c i with
  | nil =>
    obtain rfl : c = 0 := h
    simp
  | cons d ds ih =>
    rw [List.length_cons] at hlen
    have hrest : ∀ j, (crcBit c d).getMsbD j = ds.getD j false := ih (by omega) h
    have hlast : (crcBit c d).getLsbD 0 = false := by
      rw [← List.getD_eq_default ds false (n := 15) (by omega), ← hrest 15]
      rfl
    have htop : (c.getLsbD 15 ^^ d) = false := (getLsbD_zero_crcBit c d).symm.trans hlast
    cases i with
    | zero => exact bne_eq_false_iff_eq.mp htop
    | succ i =>
      have hshift : crcBit c d = c <<< 1 := by rw [crcBit, htop, if_neg Bool.false_ne_true]
      rw [List.getD_cons_succ, ← hrest i, hshift, BitVec.getMsbD_shiftLeft]

theorem inputBits_getD (b : Byte) (i : Nat) : (inputBits b).getD i false = b.getMsbD i := by
  match i with
  | 0 | 1 | 2 | 3 | 4 | 5 | 6 | 7 => rfl
  | i + 8 => simp [inputBits]

/-- The byte step gives zero only from the register whose upper byte is the character and whose lower byte is 0. -/
theorem eq_append_of_crcByte_eq_zero {c : BitVec 16} {b : Byte} (h : crcByte c b = 0) : c = b ++ (0 : Byte) := by
  have hlen : (inputBits b).length ≤ 16 := by rw [inputBits_length]; decide
  rw [crcByte_eq_foldl_inputBits] at h
  refine BitVec.eq_of_getMsbD_eq fun i _ => ?_
  rw [getMsbD_of_foldl_crcBit_eq_zero hlen h, inputBits_getD, BitVec.getMsbD_append]
  split
  next hi => rw [BitVec.getMsbD_of_ge b i hi]; exact BitVec.getMsbD_zero.symm
  next => rfl

/-- Two byte steps with one result differ in the registers as they differ in the characters, 8 bits higher. -/
theorem xor_eq_append_of_crcByte_eq {c c' : BitVec 16} {a b : Byte} (h : crcByte c a = crcByte c' b) :
    c ^^^ c' = (a ^^^ b) ++ (0 : Byte) :=
  eq_append_of_crcByte_eq_zero (by rw [crcByte_xor, h, BitVec.xor_self]; rfl)

/-- The byte step loses nothing of the register: equal characters leave no difference in it. -/
theorem crcByte_left_injective (b : Byte) : Function.Injective (crcByte · b) := fun c c' h => by
  have hxor := xor_eq_append_of_crcByte_eq h
  rw [BitVec.xor_self] at hxor
  exact BitVec.xor_eq_zero_iff.mp hxor

/-- The byte step loses nothing of the character: equal registers leave no difference in it. -/
theorem crcByte_right_injective (c : BitVec 16) : Function.Injective (crcByte c) := fun a b h => by
  have hxor := xor_eq_append_of_crcByte_eq h
  rw [BitVec.xor_self] at hxor
  exact BitVec.xor_eq_zero_iff.mp ((BitVec.append_left_inj (0 : Byte)).mp hxor.symm)

/-- What has entered the register is not lost in what follows. -/
theorem foldl_crcByte_injective (x : List Byte) : Function.Injective (x.foldl crcByte) := by
  induction x with
  | nil => exact Function.injective_id
  | cons b x ih => exact ih.comp (crcByte_left_injective b)

theorem crc16_ne_of_one_changed (pre post : List Byte) {a b : Byte} (h : a ≠ b) :
    crc16 (pre ++ a :: post) ≠ crc16 (pre ++ b :: post) := by
  intro heq
  simp only [crc16, List.foldl_append, List.foldl_cons] at heq
  exact h (crcByte_right_injective _ (foldl_crcByte_injective post heq))

/-- Settles O17: linearity, the burst argument, and a string whose bits are those of the generator polynomial
`0x11021`, which has the checksum of a string of zero bytes. -/
theorem crcDetectsASingleChangedCharacter : Obligations.CrcDetectsASingleChangedCharacter :=
  ⟨fun _ _ => crc16_zipWith_xor, fun pre post _ _ => crc16_ne_of_one_changed pre post,
    [0x01, 0x10, 0x21], [0x00, 0x00, 0x00], rfl, by decide, by decide +kernel⟩

end Sys2Proof
end

section
/-! PROOFS. The values derived from a power-information response (44_payload_grammars.md R231): each is a function of
what the typed accessors return, and these read the message's field registers in grammar order. -/

namespace Sys2Proof

theorem Config.fdiv_zero : Config.fdiv 0 = 0 := if_pos rfl

namespace Machine

variable {s : State} {n : FieldName} {c : Rat}

/-- A typed accessor of a parsed message reads the field register at its name's place in the grammar. -/
theorem State.accessor_eq_fieldReg {t : Tag} {j : Nat} (hst : s.st = .parsed) (htag : s.tag = some t)
    (hj : (fieldNames t).findIdx? (fun m => m == n) = some j) : s.accessor n = s.fieldReg j := by
  simp only [State.accessor, if_pos hst, htag, hj]

theorem State.corr_of_accessor {raw : Word} (h : s.accessor .secondsCorrectionRaw = some raw) :
    s.corr = some ((raw.toNat : Rat) / 46875) := by
  rw [State.corr, h]
  rfl

theorem State.correctionFactor_of_corr (h : s.corr = some c) : s.correctionFactor = some (Config.fdiv c) := by
  rw [State.correctionFactor, h, Option.map_some]

theorem State.energySeconds_of_accessor {p : Word} (base : Rat) (hn : s.accessor n = some p) (hc : s.corr = some c) :
    s.energySeconds n base = some { pulses := p.toNat, basis := .seconds (base + c) } := by
  simp only [State.energySeconds, hn, hc]

theorem State.energyHour_of_accessor {p : Word} (hn : s.accessor n = some p) :
    s.energyHour n = some { pulses := p.toNat, basis := .oneHour } := by
  rw [State.energyHour, hn, Option.map_some]

/-- Settles O41: the accessors return the five fields, the derived values follow from these by their equations, and the
corner cases are values of the quotient. -/
theorem energiesFollowFromTheFields : Obligations.EnergiesFollowFromTheFields := by
  intro s a b c d raw hst htag h0 h1 h2 h3 h4
  have hOne : s.accessor .oneSecondPulses = some a := (State.accessor_eq_fieldReg hst htag rfl).trans h0
  have hEight : s.accessor .eightSecondPulses = some b := (State.accessor_eq_fieldReg hst htag rfl).trans h1
  have hCons : s.accessor .oneHourConsumedPulses = some c := (State.accessor_eq_fieldReg hst htag rfl).trans h2
  have hProd : s.accessor .oneHourProducedPulses = some d := (State.accessor_eq_fieldReg hst htag rfl).trans h3
  have hRaw : s.accessor .secondsCorrectionRaw = some raw := (State.accessor_eq_fieldReg hst htag rfl).trans h4
  have hcorr := State.corr_of_accessor hRaw
  have honeSecond := State.energySeconds_of_accessor 1 hOne hcorr
  refine ⟨hcorr, honeSecond, State.energySeconds_of_accessor 8 hEight hcorr, State.energyHour_of_accessor hCons,
    State.energyHour_of_accessor hProd, ?zero, ?bound, ?one, ?largest⟩
  case zero =>
    intro h
    have hquot : (raw.toNat : Rat) / 46875 = 0 := by simp [h]
    rw [hquot] at hcorr honeSecond
    rw [add_zero] at honeSecond
    exact ⟨by rw [State.correctionFactor_of_corr hcorr, Config.fdiv_zero], honeSecond⟩
  case bound =>
    intro hle
    have hle' : (raw.toNat : Rat) ≤ 65535 := by exact_mod_cast hle
    exact ⟨_, hcorr, by positivity, by gcongr⟩
  case one =>
    intro h
    have hnat : raw.toNat = 46875 := congrArg BitVec.toNat h
    rw [hcorr, hnat]
    norm_num
  case largest =>
    intro h
    have hnat : raw.toNat = 65535 := congrArg BitVec.toNat h
    rw [hcorr, hnat]
    norm_num

end Machine
end Sys2Proof
end

section
/-! PROOFS. Which errors a command raises (60_exceptions.md R260): for each check the errors it can raise, and for each
command that its checks, and the writes that follow them, take no other error. -/

namespace Sys2Proof.Machine

/-- The errors that the checks raise are of the kinds listed (`ERR.KIND`); a refusal is no error. -/
def RaisesOnly {α : Type} (ks : List (BitVec 3)) (x : Except Stop α) : Prop :=
  ∀ e, x = .error (.raise e) → e.kind ∈ ks

/-- The error that an outcome leaves in `ERR`, if any, is of a kind listed. -/
def FailsOnly (ks : List (BitVec 3)) (o : Host.Outcome State Fault Refusal) : Prop :=
  ∀ t e, o = .next t → t.err = some e → e.kind ∈ ks

variable {α β : Type} {ks : List (BitVec 3)}

/-! ### The checks -/

theorem RaisesOnly.ok (a : α) : RaisesOnly ks (.ok a) := nofun

theorem RaisesOnly.refuse (r : RefusalReason) : RaisesOnly ks (refuse r : Except Stop α) := nofun

theorem RaisesOnly.raise {e : CodecError} (h : e.kind ∈ ks) : RaisesOnly ks (raise e : Except Stop α) := by
  rintro _ ⟨⟩
  exact h

theorem RaisesOnly.bind {x : Except Stop α} {f : α → Except Stop β} (hx : RaisesOnly ks x)
    (hf : ∀ a, RaisesOnly ks (f a)) : RaisesOnly ks (x >>= f) := fun e he =>
  match bind_eq_error.mp he with
  | .inl h => hx e h
  | .inr ⟨a, _, h⟩ => hf a e h

theorem RaisesOnly.require_refuse (c : Prop) [Decidable c] (r : RefusalReason) :
    RaisesOnly ks (require c (.refuse r)) := fun _ he => by cases (require_eq_error.mp he).2

theorem RaisesOnly.require_raise (c : Prop) [Decidable c] {e : CodecError} (h : e.kind ∈ ks) :
    RaisesOnly ks (require c (.raise e)) := fun _ he => by cases (require_eq_error.mp he).2; exact h

theorem RaisesOnly.needValue (r : Reg) (x : Option α) : RaisesOnly ks (needValue r x) := by
  cases x with
  | none => exact .refuse _
  | some v => exact .ok v

theorem RaisesOnly.input (s : State) : RaisesOnly ks s.input := by
  unfold State.input
  split
  · split
    · exact .ok _
    · exact .refuse _
  · exact .refuse _

theorem RaisesOnly.fixedInput (n : Nat) (s : State) : RaisesOnly ks (s.fixedInput n) := by
  unfold State.fixedInput
  split
  · exact .input s
  · exact .refuse _

theorem RaisesOnly.encodeField (h : 2 ∈ ks) (fld : ErrField) (v w : Nat) :
    RaisesOnly ks (encodeField fld v w) := by
  unfold Machine.encodeField
  split
  · exact .ok _
  · exact .raise h

/-- A value that fits its field raises nothing. -/
theorem RaisesOnly.encodeField_of_lt {v w : Nat} (h : v < 16 ^ w) (fld : ErrField) :
    RaisesOnly ks (Machine.encodeField fld v w) := by
  rw [encodeField_eq_ok.mpr ⟨h, rfl⟩]
  exact .ok _

theorem RaisesOnly.decodeField (h : 1 ∈ ks) (fld : ErrField) (t : List Byte) :
    RaisesOnly ks (decodeField fld t) := by
  unfold Machine.decodeField
  split
  · exact .ok _
  · exact .raise h

theorem RaisesOnly.encKind (h : 2 ∈ ks) (j : Nat) (k : Kind) (v : Word) :
    RaisesOnly ks (encKind j k v) := by
  cases k with
  | bool =>
    simp only [Machine.encKind]
    split
    · exact .ok _
    · split
      · exact .ok _
      · exact .refuse _
  | _ =>
    simp only [Machine.encKind]
    exact .encodeField h _ _ _

theorem RaisesOnly.render (h : 2 ∈ ks) (j : Nat) (kinds : List Kind) (fs : List (Option Word)) :
    RaisesOnly ks (render j kinds fs) := by
  induction kinds generalizing j fs with
  | nil => exact .ok _
  | cons k kinds ih =>
    match fs with
    | [] | none :: _ => exact .refuse _
    | some v :: fs => exact .bind (.encKind h j k v) fun _ => .bind (ih (j + 1) fs) fun _ => .ok _

theorem RaisesOnly.macField (g : Grammar) (m : Option Word) : RaisesOnly ks (macField g m) := by
  unfold Machine.macField
  split
  · split
    · exact .ok _
    · exact .refuse _
  · exact .ok _

theorem RaisesOnly.frameBody (h : 2 ∈ ks) (t : Tag) (s : State) :
    RaisesOnly ks (frameBody t s) := by
  unfold Machine.frameBody
  split
  · exact .refuse _
  · exact .bind (.macField _ _) fun _ => .bind (.render h _ _ _) fun _ => .bind (.require_refuse _ _) fun _ => .ok _

theorem RaisesOnly.matchPayload (h : 3 ∈ ks) (g : Grammar) (c : BitVec 16) (p : List Byte) :
    RaisesOnly ks (matchPayload g c p) := by
  unfold Machine.matchPayload
  split
  · exact .raise h
  · split
    · exact .ok _
    · exact .refuse _

theorem RaisesOnly.matchMessage (h : 3 ∈ ks) (g : Grammar) (c : BitVec 16) (n : Nat) (p : List Byte) :
    RaisesOnly ks (matchMessage g c n p) :=
  .bind (.matchPayload h g c p) fun _ => .bind (.require_refuse _ _) fun _ => .ok _

theorem RaisesOnly.dispatchTag (h : 4 ∈ ks) (vt : VariantTable) (t : Tag) (c : BitVec 16) :
    RaisesOnly ks (dispatchTag vt t c) := by
  unfold Machine.dispatchTag
  split
  · exact .raise h
  · split
    · exact .ok _
    · exact .refuse _

theorem RaisesOnly.dispatch (h : 4 ∈ ks) (r : Registry) (vt : VariantTable) (c : BitVec 16) :
    RaisesOnly ks (dispatch r vt c) := by
  unfold Machine.dispatch
  split
  · exact .raise h
  · exact .bind (.dispatchTag h vt _ c) fun _ => .ok _

theorem RaisesOnly.splitFrame {select : BitVec 16 → Except Stop (Tag × Grammar)} (h1 : 1 ∈ ks) (h3 : 3 ∈ ks)
    (hsel : ∀ c, RaisesOnly ks (select c)) (n : Nat) (s : List Byte) : RaisesOnly ks (splitFrame select n s) :=
  .bind (.require_raise _ h1) fun _ => .bind (.decodeField h1 _ _) fun _ => .bind (hsel _) fun _ =>
  .bind (.require_raise _ h1) fun _ => .bind (.decodeField h1 _ _) fun _ =>
  .bind (.require_raise _ h1) fun _ => .bind (.matchPayload h3 _ _ _) fun _ =>
  .bind (.require_refuse _ _) fun _ => .bind (.decodeField h1 _ _) fun _ => .ok _

/-! ### The commands -/

/-- The errors of a command are those its checks raise and those its writes leave. -/
theorem RaisesOnly.finish {s : State} {kept : Kept} {x : Except Stop α} {k : α → State} (hx : RaisesOnly ks x)
    (hk : ∀ a e, (k a).err = some e → e.kind ∈ ks) : FailsOnly ks (finish (s.start kept) x k) := by
  intro t e ht he
  rcases finish_eq_next.mp ht with ⟨a, -, rfl⟩ | ⟨stop, hstop, rfl⟩
  · exact hk a e he
  · cases stop with
    | raise e' => cases he; exact hx e hstop
    | refuse r => cases he

theorem hexEncode_failsOnly {n : Nat} {pick : Word → Nat} (h : ∀ v, RaisesOnly ks (encodeField .value (pick v) n))
    (s : State) : FailsOnly ks (hexEncode n pick s) :=
  RaisesOnly.finish (.bind (.needValue _ _) h) nofun

theorem hexDecode_failsOnly (h : 1 ∈ ks) (n : Nat) (s : State) : FailsOnly ks (hexDecode n s) :=
  RaisesOnly.finish (.bind (.fixedInput n s) fun _ => .decodeField h _ _) nofun

theorem identify_err {c : BitVec 16} {s0 : State} {e : CodecError} (h0 : s0.err = none)
    (h : (identify c s0).err = some e) : e = .unknownMessageType c := by
  unfold identify at h
  split at h
  · cases h; rfl
  · cases h0.symm.trans h

theorem verify_err {m : InboundFrame} {s0 : State} {e : CodecError} (h0 : s0.err = none)
    (h : (verify m s0).err = some e) : e = .checksumMismatch := by
  unfold verify at h
  split at h
  · cases h0.symm.trans h
  · cases h; rfl

/-- The last column of the table of errors (60_exceptions.md R260), read by command: the `ERR.KIND` of each error that
the table gives a command. The variants are not in the table. -/
def errorKinds : Instr → List (BitVec 3)
  | .hexDecu | .hexDecf32 | .hexDecds | .hexDecdm | .hexDecmac => [1]
  | .hexEncu | .hexEncds | .hexEncdm | .frmEncode => [2]
  | .regFromcode => [1, 4]
  | .msgDecode => [1, 3, 4]
  | .frmParse => [1, 3, 4, 5]
  | _ => []

/-- No command raises an error that the table does not give it. -/
theorem exec_failsOnly_errorKinds {i : Instr} (hi : i.variant = none) (s : State) :
    FailsOnly (errorKinds i) (exec i s) := by
  cases i
  case hexEncu =>
    exact RaisesOnly.finish (.bind (.needValue _ _) fun _ => .bind (.needValue _ _) fun _ =>
      .bind (.require_refuse _ _) fun _ => .encodeField (by decide) _ _ _) nofun
  case hexDecu =>
    exact RaisesOnly.finish (.bind (.require_refuse _ _) fun _ => .bind (.input s) fun _ =>
      .decodeField (by decide) _ _) nofun
  case hexEncds | hexEncdm => exact hexEncode_failsOnly (fun _ => .encodeField (by decide) _ _ _) s
  case hexEncf32 => exact hexEncode_failsOnly (fun v => .encodeField_of_lt (v.setWidth 32).isLt _) s
  case hexEncmac => exact hexEncode_failsOnly (fun v => .encodeField_of_lt v.isLt _) s
  case hexDecf32 | hexDecds | hexDecdm | hexDecmac => exact hexDecode_failsOnly (by decide) _ s
  case crcCompute => exact RaisesOnly.finish (.input s) nofun
  case regTocode => exact RaisesOnly.finish (.needValue _ _) nofun
  case regFromcode =>
    refine RaisesOnly.finish (.bind (.fixedInput 4 s) fun _ => .decodeField (by decide) _ _) fun c e he => ?_
    rw [identify_err rfl he, CodecError.kind]
    decide
  case frmEncode =>
    exact RaisesOnly.finish (.bind (.needValue _ _) fun t => .frameBody (by decide) t s) nofun
  case frmParse =>
    refine RaisesOnly.finish (.bind (.input s) fun _ => .splitFrame (by decide) (by decide)
      (fun _ => .dispatch (by decide) _ _ _) _ _) fun m e he => ?_
    rw [verify_err rfl he]
    decide
  case msgDecode =>
    exact RaisesOnly.finish (.bind (.require_refuse _ _) fun _ => .bind (.input s) fun _ =>
      .bind (.decodeField (by decide) _ _) fun _ => .bind (.dispatch (by decide) _ _ _) fun _ =>
      .bind (.matchMessage (by decide) _ _ _ _) fun _ => .ok _) nofun
  all_goals exact absurd hi (by simp [Instr.variant])

/-- Settles O48: the table's rows are those of `errorKinds`, which holds for every command by
`exec_failsOnly_errorKinds`. -/
theorem errorsAreRaisedByTheirCommands : Obligations.ErrorsAreRaisedByTheirCommands := by
  refine ⟨fun _ _ _ _ => ⟨rfl, rfl, rfl, rfl, rfl, rfl, rfl, rfl, rfl, rfl, rfl⟩, fun i s t e hi ht he => ?_⟩
  have hkind : e.kind ∈ errorKinds i := exec_failsOnly_errorKinds hi s t e ht he
  generalize e.kind = k at hkind
  cases i
  case hexDecu | hexDecf32 | hexDecds | hexDecdm | hexDecmac | hexEncu | hexEncds | hexEncdm | frmEncode | regFromcode
      | msgDecode | frmParse =>
    revert k
    decide
  all_goals exact absurd hkind List.not_mem_nil

end Sys2Proof.Machine
end

section
/-! PROOFS. Words and their instructions (30_encoding.md R71, R90; 42_registry.md R151). The decoder reads a character as a
command code, and one followed by four as the code of a `FRAME` command and a type field; the type field of a code is the
upper case of every string of digits with its value. -/

namespace Sys2Proof

/-- The digits of a type code read from four characters are those characters in upper case. -/
theorem hex16_ofNat_of_decU {x : List Byte} {c : Nat} (hlen : x.length = 4) (h : decU x = some c) :
    hex16 (BitVec.ofNat 16 c) = upper x := by
  obtain ⟨-, hhex, rfl⟩ := decU_eq_some.mp h
  have hlt : hexValue x < 16 ^ 4 := hlen ▸ hexValue_lt hhex
  rw [hex16, BitVec.toNat_ofNat, Nat.mod_eq_of_lt (b := 2 ^ 16) hlt, ← hexDigits_hexValue hhex, hlen]

theorem ofNat_toNat_code (c : BitVec 16) : BitVec.ofNat 16 c.toNat = c := by
  rw [BitVec.ofNat_toNat, BitVec.setWidth_eq]

theorem decodeMsgOp_eq_some {b : Byte} {op : MsgOp} : decodeMsgOp b.toNat = some op ↔ b = op.code := by
  constructor
  · intro h
    apply BitVec.eq_of_toNat_eq
    unfold decodeMsgOp at h
    split at h <;> cases h <;> assumption
  · rintro rfl
    cases op <;> rfl

/-- The command codes: the word of the command that a code selects is that code. -/
theorem encode_of_decodeCommand (r : Registry) {b : Byte} {i : Instr} (h : decodeCommand b.toNat = some i) :
    encode r i = [b] := by
  unfold decodeCommand at h
  split at h <;> cases h <;>
    exact congrArg (fun c : Byte => [c]) (BitVec.eq_of_toNat_eq (Eq.symm ‹b.toNat = _›))

theorem decodeCommand_lt {n : Nat} {i : Instr} (h : decodeCommand n = some i) : n < 16 := by
  unfold decodeCommand at h
  split at h <;> cases h <;> decide

/-- What the decoder accepts: a command code, or the code of a `FRAME` command and a registered type field. -/
theorem decode_eq_ok {r : Registry} {ws : List Byte} {i : Instr} :
    decode r ws = .ok i ↔
      (∃ b, ws = [b] ∧ decodeCommand b.toNat = some i) ∨
        ∃ op x c t, ws = MsgOp.code op :: x ∧ x.length = 4 ∧ decU x = some c ∧
          r.lookup (BitVec.ofNat 16 c) = some t ∧ i = t.instr op := by
  constructor
  · intro h
    unfold decode at h
    split at h
    next b =>
      split at h
      next hb => cases h; exact .inl ⟨b, rfl, hb⟩
      next => cases h
    next b t0 t1 t2 t3 =>
      split at h
      next => cases h
      next op hop =>
        split at h
        next => cases h
        next c hc =>
          split at h
          next => cases h
          next t ht => cases h; exact .inr ⟨op, _, c, t, by rw [decodeMsgOp_eq_some.mp hop], rfl, hc, ht, rfl⟩
    next => cases h
  · rintro (⟨b, rfl, hb⟩ | ⟨op, x, c, t, rfl, hlen, hc, ht, rfl⟩)
    · simp only [decode, hb]
    · obtain ⟨t0, t1, t2, t3, rfl⟩ : ∃ t0 t1 t2 t3, x = [t0, t1, t2, t3] := by
        match x, hlen with
        | [t0, t1, t2, t3], _ => exact ⟨t0, t1, t2, t3, rfl⟩
      simp only [decode, decodeMsgOp_eq_some.mpr (rfl : op.code = op.code), hc, ht]

/-- Settles O1, by evaluation of the decoder on each word. -/
theorem wordsDecodeToTheirInstructions : Obligations.WordsDecodeToTheirInstructions :=
  ⟨rfl, rfl, rfl, rfl, rfl, rfl, rfl, rfl, rfl, rfl, rfl, rfl⟩

/-- Settles O2: the word of a command is its code; the type field of a variant is read as its code, by which the registry
finds it. -/
theorem decodeOfEncodeIsTheInstruction : Obligations.DecodeOfEncodeIsTheInstruction := by
  intro r i hwf
  rcases i.command_or_variant with hi | ⟨t, op, rfl⟩
  · cases i
    case hexEncu | hexDecu | hexEncf32 | hexDecf32 | hexEncds | hexDecds | hexEncdm | hexDecdm | hexEncmac | hexDecmac
        | crcCompute | regFromcode | regTocode | frmEncode | frmParse | msgDecode => rfl
    all_goals cases hi
  · refine decode_eq_ok.mpr (.inr ⟨op, hex16 (r.get t), (r.get t).toNat, t, encode_instr r t op, hex16_length _,
      decU_hex16 _, (Registry.lookup_eq_some hwf).mpr (ofNat_toNat_code _).symm, rfl⟩)

/-- A command code is no letter, so that `upper` leaves it. -/
theorem upper_cons_of_lt {b : Byte} (h : b.toNat < 16) (x : List Byte) : upper (b :: x) = b :: upper x := by
  have hb : upperChar b = b := upperChar_eq_self_iff.mpr (by omega)
  rw [upper_eq_map, List.map_cons, hb, ← upper_eq_map]

theorem MsgOp.code_lt (op : MsgOp) : op.code.toNat < 16 := by cases op <;> decide

/-- Settles O3: a code that is read is the byte of its command, and the digits of a registered code are the type field in
upper case. -/
theorem encodeOfDecodeIsTheWord : Obligations.EncodeOfDecodeIsTheWord := by
  intro r ws i h
  rcases decode_eq_ok.mp h with ⟨b, rfl, hb⟩ | ⟨op, x, c, t, rfl, hlen, hc, ht, rfl⟩
  · rw [encode_of_decodeCommand r hb, upper_cons_of_lt (decodeCommand_lt hb)]
    rfl
  · rw [encode_instr, encodeVariant, Registry.get_of_lookup ht, hex16_ofNat_of_decU hlen hc,
      upper_cons_of_lt op.code_lt]

end Sys2Proof
end

section
/-! PROOFS. Accessors and codes: the typed accessors of each known variant (44_payload_grammars.md section 2), and the
codes of `ST` and `ERR` (10_state.md R24, R25). -/

namespace Sys2Proof.Machine

theorem State.accessor_of_ne_parsed {s : State} (h : s.st ≠ .parsed) (n : FieldName) : s.accessor n = none := if_neg h

/-- Settles O40: without `PARSED` no accessor has a value; with it each reads the register at its name's place. -/
theorem accessorsReadTheFields : Obligations.AccessorsReadTheFields := by
  refine ⟨fun s n h => s.accessor_of_ne_parsed h n, fun s hst => ⟨fun ht => ?_, fun ht => ?_, fun ht => ?_, fun ht => ?_,
    fun ht => ?_, fun ht => ?_⟩⟩
  · exact ⟨State.accessor_eq_fieldReg hst ht rfl, State.accessor_eq_fieldReg hst ht rfl⟩
  · exact ⟨State.accessor_eq_fieldReg hst ht rfl, State.accessor_eq_fieldReg hst ht rfl⟩
  · exact State.accessor_eq_fieldReg hst ht rfl
  · exact State.accessor_eq_fieldReg hst ht rfl
  · exact State.accessor_eq_fieldReg hst ht rfl
  · exact ⟨State.accessor_eq_fieldReg hst ht rfl, State.accessor_eq_fieldReg hst ht rfl,
      State.accessor_eq_fieldReg hst ht rfl, State.accessor_eq_fieldReg hst ht rfl⟩

theorem CodecError.kind_ne_zero (e : CodecError) : e.kind ≠ 0 := by
  cases e <;> rw [CodecError.kind] <;> decide

/-- Settles O47: each code and each field of a record is an equation of its definition. -/
theorem statusAndErrorRegistersHoldTheirCodes : Obligations.StatusAndErrorRegistersHoldTheirCodes :=
  ⟨⟨rfl, rfl, rfl⟩, fun _ => ⟨rfl, rfl, rfl, rfl, rfl⟩, fun _ => ⟨rfl, rfl, rfl, rfl, rfl⟩,
    fun _ _ _ => ⟨rfl, rfl, rfl, rfl, rfl⟩, fun _ => ⟨rfl, rfl, rfl, rfl, rfl⟩, ⟨rfl, rfl, rfl, rfl, rfl⟩,
    CodecError.kind_ne_zero⟩

end Sys2Proof.Machine
end

section
/-! PROOFS. The start of a command (43_framing.md R173): the state it leaves, by the operands the command keeps, in terms of
a block whose registers hold no value (`State.blank`), and what an error or a refusal makes of it. -/

namespace Sys2Proof.Machine

@[simp] theorem map_keepIf_false {α : Type} (l : List (Option α)) : l.map (keepIf false) = List.replicate l.length none :=
  List.map_eq_replicate_iff.mpr fun _ _ => rfl

@[simp] theorem map_keepIf_true {α : Type} (l : List (Option α)) : l.map (keepIf true) = l := List.map_id l

theorem State.start_nothing (s : State) : s.start .nothing = { s.blank with st := .unparsed } := by
  simp [State.start, State.blank, Kept.nothing]

theorem State.start_ofVal (s : State) : s.start .ofVal = { s.blank with st := .unparsed, val := s.val } := by
  simp [State.start, State.blank, Kept.ofVal]

theorem State.start_ofTag (s : State) : s.start .ofTag = { s.blank with st := .unparsed, tag := s.tag } := by
  simp [State.start, State.blank, Kept.ofTag]

theorem State.start_ofSeq (s : State) : s.start .ofSeq = { s.blank with st := .unparsed, seq := s.seq } := by
  simp [State.start, State.blank, Kept.ofSeq]

theorem State.start_ofMessage (s : State) : s.start .ofMessage = { s.messageKept with st := .unparsed } := by
  simp [State.start, State.messageKept, Kept.ofMessage]

theorem State.start_nothing_fail (e : CodecError) (s : State) : (s.start .nothing).fail e = s.blankFailed e := by
  rw [State.start_nothing]
  rfl

theorem State.start_nothing_refused (r : RefusalReason) (s : State) :
    (s.start .nothing).refused r = s.blankRefused r := by
  rw [State.start_nothing]
  rfl

theorem State.start_ofVal_fail (e : CodecError) (s : State) :
    (s.start .ofVal).fail e = { s.blankFailed e with val := s.val } := by
  rw [State.start_ofVal]
  rfl

theorem State.start_ofVal_refused (r : RefusalReason) (s : State) :
    (s.start .ofVal).refused r = { s.blankRefused r with val := s.val } := by
  rw [State.start_ofVal]
  rfl

theorem State.start_ofTag_refused (r : RefusalReason) (s : State) :
    (s.start .ofTag).refused r = { s.blankRefused r with tag := s.tag } := by
  rw [State.start_ofTag]
  rfl

theorem State.start_ofSeq_fail (e : CodecError) (s : State) :
    (s.start .ofSeq).fail e = { s.blankFailed e with seq := s.seq } := by
  rw [State.start_ofSeq]
  rfl

theorem State.start_ofSeq_refused (r : RefusalReason) (s : State) :
    (s.start .ofSeq).refused r = { s.blankRefused r with seq := s.seq } := by
  rw [State.start_ofSeq]
  rfl

theorem State.start_ofMessage_fail (e : CodecError) (s : State) :
    (s.start .ofMessage).fail e = { s.messageKept with st := .failed, err := some e } := by
  rw [State.start_ofMessage]
  rfl

theorem State.start_ofMessage_refused (r : RefusalReason) (s : State) :
    (s.start .ofMessage).refused r = s.messageRefused r := by
  rw [State.start_ofMessage]
  rfl

/-! ### What the writes of a result make of it -/

theorem State.start_nothing_value (v : Nat) (s : State) :
    (s.start .nothing).value v = { s.blank with val := some (BitVec.ofNat 64 v) } := by
  rw [State.start_nothing]
  rfl

theorem State.start_ofVal_out (x : List Byte) (s : State) :
    (s.start .ofVal).out x = { s.blank with val := s.val, ob := Memory.ofString x, olen := x.length } := by
  rw [State.start_ofVal, ← Memory.writeString_empty]
  rfl

theorem State.start_ofMessage_frame (body : List Byte) (s : State) :
    ((s.start .ofMessage).checksum body).out (withCrc body) =
      { s.messageKept with crc := crc16 body, ob := Memory.ofString (withCrc body), olen := body.length + 4 } := by
  rw [State.start_ofMessage, ← Memory.writeString_empty, ← withCrc_length]
  rfl

theorem State.start_ofSeq_message (t : Tag) (c : BitVec 16) (m : Option Word) (fs : List Word) (s : State) :
    (s.start .ofSeq).message t c s.seq m fs =
      { s.blank with
        tag := some t, code := some c, seq := s.seq, mac := m,
        f := fs.map some ++ List.replicate (s.f.length - fs.length) none } := by
  simp [State.message, State.start_ofSeq, State.blank]

theorem State.start_nothing_message (body : List Byte) (t : Tag) (c q : BitVec 16) (m : Option Word) (fs : List Word)
    (s : State) : ((s.start .nothing).checksum body).message t c (some q) m fs =
      { s.blank with
        crc := crc16 body, tag := some t, code := some c, seq := some q, mac := m,
        f := fs.map some ++ List.replicate (s.f.length - fs.length) none } := by
  simp [State.message, State.checksum, State.start_nothing, State.blank]

/-- `F[j]` of registers of which the first are given and the rest hold no value. -/
theorem join_getElem?_append_replicate_none {α : Type} (l : List (Option α)) (n j : Nat) :
    ((l ++ List.replicate n none)[j]?).join = (l[j]?).join := by
  rw [List.getElem?_append]
  split
  · rfl
  next h =>
    rw [List.getElem?_eq_none (Nat.le_of_not_lt h), List.getElem?_replicate]
    split <;> rfl

end Sys2Proof.Machine
end

section
/-! PROOFS. One step (00_scope.md R9; 70_reset_and_hazards.md R290, R294): what each input of the host does, that every
command ends in a next state (43_framing.md R174), and the inputs at which a step stops. -/

namespace Sys2Proof

/-- A word that has no meaning for the block, by the decoder's error (log 11). -/
def DecodeError.Unusable (e : DecodeError) : Prop :=
  (∃ n, e = .length n) ∨ (∃ b, e = .command b) ∨ (∃ b, e = .msgOp b) ∨ e = .typeField .encode ∨
    ∃ c, e = .unknownType .encode c

namespace Machine

theorem step_of_queue_nil {s : State} (h : s.queue = []) : step s = .next s := by rw [step, h]

theorem runCommand_of_ok {word : List Byte} {o : Operands} {s : State} {i : Instr} (hf : o.fields.length ≤ s.f.length)
    (h : decode s.reg word = .ok i) : runCommand word o s = exec i (s.load o) := by
  rw [runCommand, if_neg (Nat.not_lt.mpr hf), h]

theorem runCommand_of_error {word : List Byte} {o : Operands} {s : State} {e : DecodeError}
    (hf : o.fields.length ≤ s.f.length) (h : decode s.reg word = .error e) :
    runCommand word o s = badWord e (s.load o) := by
  rw [runCommand, if_neg (Nat.not_lt.mpr hf), h]

theorem runCommand_of_tooManyFields {word : List Byte} {o : Operands} {s : State} (hf : s.f.length < o.fields.length) :
    runCommand word o s = .refused .noFieldRegister := if_pos hf

/-- Settles O4: a step with a command runs it on the state with its record loaded, whose registers are those of the
record. -/
theorem stepRunsTheDecodedInstruction : Obligations.StepRunsTheDecodedInstruction := by
  refine ⟨fun s => step_of_queue_nil, fun s word o rest hq hf => ?_, fun s word o rest i hq hf hi => ?_⟩
  · rw [step_of_queue_cons hq]
    exact runCommand_of_tooManyFields hf
  · refine ⟨{ s with queue := rest }.load o, ?_, rfl, rfl, rfl, rfl, rfl, rfl, rfl, rfl, Memory.readString_ofString _, ?_,
      fun j => ?_, rfl, rfl, rfl⟩
    · rw [step_of_queue_cons hq]
      exact runCommand_of_ok hf hi
    · simp [hf]
    · exact join_getElem?_append_replicate_none o.fields _ j

/-- Settles O5: `badWord` in each case, on the loaded state. -/
theorem badWordsEndInTheirErrors : Obligations.BadWordsEndInTheirErrors := by
  intro s word o rest e hq hf he
  have hstep : step s = badWord e ({ s with queue := rest }.load o) := by
    rw [step_of_queue_cons hq]
    exact runCommand_of_error hf he
  rw [hstep]
  refine ⟨?_, ?_, ?_, ?_, ?_⟩
  · rintro c rfl
    rw [badWord, State.start_nothing_fail]
  · rintro c rfl
    rw [badWord, State.start_ofSeq_fail]
    rfl
  · rintro rfl
    rw [badWord, State.start_nothing_fail]
  · rintro rfl
    rw [badWord, State.start_ofSeq_fail]
    rfl
  · rintro (⟨n, rfl⟩ | ⟨b, rfl⟩ | ⟨b, rfl⟩ | rfl | ⟨c, rfl⟩) <;> rfl

/-- Registers none of which holds a value. -/
theorem join_getElem?_replicate_none {α : Type} (n j : Nat) :
    ((List.replicate n (none : Option α))[j]?).join = none :=
  join_getElem?_append_replicate_none [] n j

/-- Settles O6: both resets are written out; no register of a row of empty ones holds a value. -/
theorem resetLeavesNoResult : Obligations.ResetLeavesNoResult := by
  refine ⟨⟨rfl, rfl, rfl, rfl, rfl, rfl, rfl, fun j => ?_, rfl, rfl⟩, fun s rest hq => ?_⟩
  · rw [State.fv, State.fieldReg, State.reset, join_getElem?_replicate_none]
    rfl
  · refine ⟨{ s with queue := rest }.hostReset, by rw [step_of_queue_cons hq, runInput], rfl, rfl, rfl, rfl, rfl, rfl, rfl,
      rfl, fun j => ?_, List.length_replicate, rfl, rfl, rfl, rfl, rfl, rfl, rfl, rfl, rfl⟩
    rw [State.fv, State.fieldReg, State.hostReset_f, join_getElem?_replicate_none]
    rfl

/-! ### Every command ends -/

theorem finish_total {α : Type} (s0 : State) (x : Except Stop α) (k : α → State) : ∃ t, finish s0 x k = .next t := by
  cases x with
  | ok a => exact ⟨k a, rfl⟩
  | error e => exact ⟨e.after s0, rfl⟩

theorem exec_total (i : Instr) (s : State) : ∃ t, exec i s = .next t := by
  rcases i.command_or_variant with hi | ⟨t, op, rfl⟩
  · cases i
    case hexEncu | hexDecu | hexEncf32 | hexDecf32 | hexEncds | hexDecds | hexEncdm | hexDecdm | hexEncmac | hexDecmac
        | crcCompute | regFromcode | regTocode | frmEncode | frmParse | msgDecode => exact finish_total _ _ _
    all_goals cases hi
  · rw [exec_instr]
    cases op <;> exact finish_total _ _ _

/-- How a command ends: `ST`, and what is recorded with it. -/
theorem Ends.status {s t : State} (h : Ends s t) :
    (t.st = .parsed ∧ t.err = none ∧ t.refusal = none) ∨ (t.st = .failed ∧ t.err.isSome = true ∧ t.refusal = none) ∨
      (t.st = .unparsed ∧ t.err = none ∧ t.refusal.isSome = true) := by
  cases h with
  | failed _ _ | failedAs _ _ | corrupted _ => exact .inr (.inl ⟨rfl, rfl, rfl⟩)
  | refused _ _ | refusedAs _ _ => exact .inr (.inr ⟨rfl, rfl, rfl⟩)
  | _ => exact .inl ⟨rfl, rfl, rfl⟩

/-- Settles O46: every command is a `finish` (`exec_total`), and every end of a command has its status (`Ends.status`). -/
theorem everyCommandEndsInAResultAnErrorOrARefusal : Obligations.EveryCommandEndsInAResultAnErrorOrARefusal := by
  intro i s
  obtain ⟨t, ht⟩ := exec_total i s
  exact ⟨t, ht, (exec_ends ht).status⟩

/-! ### Where a step stops -/

theorem badWord_cases (e : DecodeError) (s : State) :
    (e.Unusable ∧ badWord e s = .refused .noSuchWord) ∨
      (¬ e.Unusable ∧ ∃ (k : Kept) (err : CodecError), badWord e s = .next ((s.start k).fail err)) := by
  cases e with
  | length n => exact .inl ⟨.inl ⟨n, rfl⟩, rfl⟩
  | command b => exact .inl ⟨.inr (.inl ⟨b, rfl⟩), rfl⟩
  | msgOp b => exact .inl ⟨.inr (.inr (.inl ⟨b, rfl⟩)), rfl⟩
  | typeField op =>
    cases op with
    | encode => exact .inl ⟨.inr (.inr (.inr (.inl rfl))), rfl⟩
    | parse | decode => exact .inr ⟨by simp [DecodeError.Unusable], _, _, rfl⟩
  | unknownType op c =>
    cases op with
    | encode => exact .inl ⟨.inr (.inr (.inr (.inr ⟨c, rfl⟩))), rfl⟩
    | parse | decode => exact .inr ⟨by simp [DecodeError.Unusable], _, _, rfl⟩

/-- Why a command that waits cannot be given to the block (logs 8, 11). -/
def CannotRun (s : State) (word : List Byte) (o : Operands) (r : Refusal) : Prop :=
  (r = .noFieldRegister ∧ s.f.length < o.fields.length) ∨
    (r = .noSuchWord ∧ o.fields.length ≤ s.f.length ∧ ∃ e, decode s.reg word = .error e ∧ e.Unusable)

/-- A command either runs to a next state or cannot be given to the block, for one reason. -/
theorem runCommand_cases (word : List Byte) (o : Operands) (s : State) :
    (∃ r, runCommand word o s = .refused r ∧ ∀ r', CannotRun s word o r' ↔ r' = r) ∨
      ((∃ t, runCommand word o s = .next t) ∧ ∀ r, ¬ CannotRun s word o r) := by
  rcases Nat.lt_or_ge s.f.length o.fields.length with hf | hf
  · refine .inl ⟨_, runCommand_of_tooManyFields hf, fun r' => ?_⟩
    simp [CannotRun, hf, Nat.not_le.mpr hf]
  · cases hd : decode s.reg word with
    | ok i =>
      obtain ⟨t, ht⟩ := exec_total i (s.load o)
      refine .inr ⟨⟨t, (runCommand_of_ok hf hd).trans ht⟩, fun r => ?_⟩
      simp [CannotRun, hd, Nat.not_lt.mpr hf]
    | error e =>
      rcases badWord_cases e (s.load o) with ⟨he, hb⟩ | ⟨he, k, err, hb⟩
      · refine .inl ⟨_, (runCommand_of_error hf hd).trans hb, fun r' => ?_⟩
        simp [CannotRun, hd, hf, he, Nat.not_lt.mpr hf]
      · refine .inr ⟨⟨_, (runCommand_of_error hf hd).trans hb⟩, fun r => ?_⟩
        simp [CannotRun, hd, he, Nat.not_lt.mpr hf]

/-- A step either gives a next state or is refused for a command that cannot be given to the block. -/
theorem step_cases (s : State) :
    (∃ r, step s = .refused r ∧
        ∀ r', (∃ word o rest, s.queue = .command word o :: rest ∧ CannotRun s word o r') ↔ r' = r) ∨
      ((∃ t, step s = .next t) ∧ ∀ r, ¬ ∃ word o rest, s.queue = .command word o :: rest ∧ CannotRun s word o r) := by
  match hq : s.queue with
  | [] => exact .inr ⟨⟨s, step_of_queue_nil hq⟩, by simp⟩
  | .reset :: rest => exact .inr ⟨⟨_, step_of_queue_cons hq⟩, by simp⟩
  | .command word o :: rest =>
    have hstep : step s = runCommand word o { s with queue := rest } := step_of_queue_cons hq
    have hqueue : ∀ r, (∃ word' o' rest', HostInput.command word o :: rest = .command word' o' :: rest' ∧
        CannotRun s word' o' r) ↔ CannotRun { s with queue := rest } word o r := fun r =>
      ⟨by rintro ⟨_, _, _, ⟨⟩, h⟩; exact h, fun h => ⟨word, o, rest, rfl, h⟩⟩
    simp only [hstep, hqueue]
    exact runCommand_cases word o { s with queue := rest }

/-- Settles O56: the two kinds of step of `step_cases`. -/
theorem stepsStopOnlyForInputsThatCannotBeGiven : Obligations.StepsStopOnlyForInputsThatCannotBeGiven := by
  intro s
  rcases step_cases s with ⟨r, hr, hiff⟩ | ⟨⟨t, ht⟩, hnone⟩
  · refine ⟨fun _ h => (by cases hr.symm.trans h), fun r' => ?_, iff_of_false ?_ (fun h => h r hr)⟩
    · rw [hr]
      exact ⟨fun h => (hiff r').mpr (by cases h; rfl), fun h => by rw [(hiff r').mp h]⟩
    · rintro ⟨t, ht⟩
      cases hr.symm.trans ht
  · refine ⟨fun _ h => (by cases ht.symm.trans h), fun r' => iff_of_false ?_ (hnone r'), iff_of_true ⟨t, ht⟩ ?_⟩
    all_goals rw [ht]; simp

end Machine
end Sys2Proof
end

section
/-! PROOFS. The tables of the block (42_registry.md section 1; 30_encoding.md R80): the registry in use passes its check
whatever is supplied, every row with an admissible grammar in its OPEN cells passes the check of the variant table, and what
that check says of each row. -/

namespace Sys2Proof

/-- A supplied table is in use only when it passes the check; the test registry passes it (log 6). -/
theorem Config.registry_wf : Config.registry.wf = true := by
  by_cases h : Registry.wf (TagTable.ofFn Config.codeSupplied) = true
  · have hreg : Config.registry = TagTable.ofFn Config.codeSupplied :=
      congrArg TagTable.ofFn (funext fun _ => if_pos h)
    rw [hreg, h]
  · have hreg : Config.registry = testRegistry := congrArg TagTable.ofFn (funext fun _ => if_neg h)
    rw [hreg]
    decide +kernel

theorem openRow_grammar (t : Tag) (g : Option Grammar) : (openRow t g).grammar = g := by
  cases g <;> rfl

theorem durationRow_grammar (t : Tag) (ks : Option (List Kind)) :
    (durationRow t ks).grammar = ks.map fun ks => { dir := .tx, hasMac := true, fields := ks } := by
  cases ks <;> rfl

/-- The row that a tag has is the one its own OPEN cells give. -/
theorem variantRow_self (g : Tag → Option Grammar) (d : Tag → Option (List Kind)) (t : Tag) :
    variantRow g d t = variantRow (fun _ => (variantRow g d t).grammar) (fun _ => (variantRow g d t).fields) t := by
  cases t
  case clockGetReq | clockGetResp | deviceInfoReq | deviceInfoResp | lightCalibrationReq | networkResetReq
      | networkStatusReq | nodeAvailableResp | pingReq | powerCalibrationReq | powerInfoReq | rtcGetReq =>
    simp only [variantRow, openRow_grammar]
  all_goals rfl

section Supplied

variable {nf : Nat} {g : Tag → Option Grammar} {d : Tag → Option (List Kind)}

theorem variantRow_grammar_ok (hnf : 5 ≤ nf) (hg : ∀ t, (g t).all (Grammar.ok nf) = true)
    (hd : ∀ t, (d t).all (durationsOk nf) = true) (t : Tag) : (variantRow g d t).grammar.all (Grammar.ok nf) = true := by
  cases t
  case clockGetReq | clockGetResp | deviceInfoReq | deviceInfoResp | lightCalibrationReq | networkResetReq
      | networkStatusReq | nodeAvailableResp | pingReq | powerCalibrationReq | powerInfoReq | rtcGetReq =>
    rw [variantRow, openRow_grammar]
    exact hg _
  case powerLogIntervalSetReq | sleepSetReq =>
    rw [variantRow, durationRow_grammar, Option.all_map]
    refine Option.all_eq_true _ _ |>.mpr fun ks hks => ?_
    have hok := Option.all_eq_true _ _ |>.mp (hd _) ks hks
    simp only [durationsOk, Bool.and_eq_true] at hok
    simp [Grammar.ok, hok.1]
  all_goals simp [variantRow, closedRow, VtRow.grammar, Grammar.ok] <;> omega

theorem variantRow_durations_ok (hd : ∀ t, (d t).all (durationsOk nf) = true) (t : Tag) :
    (!(t == .powerLogIntervalSetReq || t == .sleepSetReq) || (variantRow g d t).fields.all (durationsOk nf)) = true := by
  cases t
  case powerLogIntervalSetReq | sleepSetReq => exact hd _
  all_goals rfl

theorem variantTable_wf (hnf : 5 ≤ nf) (hg : ∀ t, (g t).all (Grammar.ok nf) = true)
    (hd : ∀ t, (d t).all (durationsOk nf) = true) : VariantTable.wf nf (TagTable.ofFn (variantRow g d)) = true := by
  refine List.all_eq_true.mpr fun t _ => ?_
  rw [TagTable.get_ofFn, VtRow.ok, variantRow_grammar_ok hnf hg hd t, variantRow_durations_ok hd t, ← variantRow_self]
  simp

end Supplied

theorem Config.five_le_nfMax : 5 ≤ Config.nfMax := Nat.le_add_left 5 _

theorem Config.sixty_le_lMax : 60 ≤ Config.lMax := Nat.le_add_left 60 _

/-- What is supplied is filtered by the check it must pass (log 7). -/
theorem Config.variantTable_wf : VariantTable.wf Config.nfMax Config.variantTable = true :=
  Sys2Proof.variantTable_wf Config.five_le_nfMax (fun _ => by simp) (fun _ => by simp)

/-- Settles O18: the registry and the variant table in use have passed their checks. -/
theorem tablesOfTheBlockAreWellFormed : Obligations.TablesOfTheBlockAreWellFormed :=
  ⟨fun _ _ => Registry.wf_injective Config.registry_wf, Registry.wf_not_ffff Config.registry_wf, Config.variantTable_wf⟩

/-! ### What the check says of a row -/

section Checked

variable {n : Nat} {vt : VariantTable} (h : vt.wf n = true)
include h

theorem VariantTable.seqRx_of_wf (t : Tag) : (vt.get t).seqRx = true := by
  rw [VariantTable.get_of_wf h t]
  cases t <;> rfl

theorem VariantTable.grammar_ok_of_wf {t : Tag} {g : Grammar} (hg : (vt.get t).grammar = some g) : g.ok n = true := by
  have hrow := List.all_eq_true.mp h t t.mem_all
  simp only [VtRow.ok, Bool.and_eq_true] at hrow
  obtain ⟨⟨-, hall⟩, -⟩ := hrow
  exact (Option.all_eq_true _ _).mp hall g hg

/-- A grammar of a checked table has no more fields than there are field registers (log 8). -/
theorem VariantTable.fields_length_le {t : Tag} {g : Grammar} (hg : (vt.get t).grammar = some g) : g.fields.length ≤ n := by
  have hok := VariantTable.grammar_ok_of_wf h hg
  simp only [Grammar.ok, Bool.and_eq_true, decide_eq_true_eq] at hok
  exact hok.1

/-- A grammar that decodes an inbound payload has no `PBADDR` field (30_encoding.md R79; log 14). -/
theorem VariantTable.pbaddr_not_mem {t : Tag} {g : Grammar} (hg : (vt.get t).grammar = some g) (hdir : g.dir = .both) :
    Kind.pbaddr ∉ g.fields := by
  have hok := VariantTable.grammar_ok_of_wf h hg
  simp only [Grammar.ok, Bool.and_eq_true] at hok
  simpa [hdir] using hok.2

theorem VariantTable.durations_of_wf {t : Tag} (ht : t = .powerLogIntervalSetReq ∨ t = .sleepSetReq) {ks : List Kind}
    (hks : (vt.get t).fields = some ks) : ∀ k ∈ ks, k = .durS2 ∨ k = .durM4 := by
  have hrow := List.all_eq_true.mp h t t.mem_all
  simp only [VtRow.ok, Bool.and_eq_true] at hrow
  obtain ⟨-, hdur⟩ := hrow
  have hok : durationsOk n ks = true := by
    rcases ht with rfl | rfl <;> exact (Option.all_eq_true _ _).mp hdur ks hks
  simp only [durationsOk, Bool.and_eq_true] at hok
  simpa using hok.2

end Checked

/-- Settles O22: every row of a checked table is the row of the document (`VariantTable.get_of_wf`). -/
theorem rowsOfTheVariantTable : Obligations.RowsOfTheVariantTable := by
  refine ⟨rfl, Tag.mem_all, fun n vt h => ⟨fun t => ⟨VariantTable.seqRx_of_wf h t, ?_⟩, fun t d m ks hrow => ?_,
    fun t ht => ⟨?_, ?_, fun ks => VariantTable.durations_of_wf h ht⟩⟩⟩
  · rw [VariantTable.seqTx_of_wf h t]
    cases t <;> decide
  · rw [VariantTable.get_of_wf h t]
    simp only [List.mem_cons, Prod.mk.injEq, List.not_mem_nil, or_false] at hrow
    rcases hrow with ⟨rfl, rfl, rfl, rfl⟩ | ⟨rfl, rfl, rfl, rfl⟩ | ⟨rfl, rfl, rfl, rfl⟩ | ⟨rfl, rfl, rfl, rfl⟩ |
      ⟨rfl, rfl, rfl, rfl⟩ | ⟨rfl, rfl, rfl, rfl⟩ | ⟨rfl, rfl, rfl, rfl⟩ | ⟨rfl, rfl, rfl, rfl⟩ | ⟨rfl, rfl, rfl, rfl⟩
    all_goals rfl
  all_goals
    rw [VariantTable.get_of_wf h t]
    rcases ht with rfl | rfl <;> rfl

end Sys2Proof
end

section
/-! PROOFS. The invariant of the block. It holds at reset, and every end of a command and every reset restores it. -/

namespace Sys2Proof.Machine

/-- Settles O42: the tables in use are checked, and every register of `State.reset` is empty. -/
theorem invariantHoldsAtReset : Obligations.InvariantHoldsAtReset where
  registry := Config.registry_wf
  variants := by
    rw [State.reset, List.length_replicate]
    exact Config.variantTable_wf
  fieldRegisters := by
    rw [State.reset, List.length_replicate]
    exact Config.five_le_nfMax
  inputBuffer := .empty
  outputBuffer := .empty
  outputFits := Nat.zero_le _
  errorRecord := by decide
  refusalRecord := nofun
  resultsWhenParsed := fun _ => rfl
  codeOfTag := nofun

/-- A reset of the host keeps the invariant (70_reset_and_hazards.md R290). -/
theorem State.Inv.hostReset {s : State} (h : s.Inv) : s.hostReset.Inv where
  registry := h.registry
  variants := by
    rw [State.hostReset_f, List.length_replicate]
    exact h.variants
  fieldRegisters := by
    rw [State.hostReset_f, List.length_replicate]
    exact h.fieldRegisters
  inputBuffer := .empty
  outputBuffer := .empty
  outputFits := Nat.zero_le _
  errorRecord := by simp
  refusalRecord := nofun
  resultsWhenParsed := fun _ => rfl
  codeOfTag := nofun

/-- No command writes the input buffer, `W` or the inputs to come. -/
theorem Ends.inputs {s t : State} (h : Ends s t) :
    t.ib = s.ib ∧ t.ilen = s.ilen ∧ t.w = s.w ∧ t.queue = s.queue := by
  cases h <;> exact ⟨rfl, rfl, rfl, rfl⟩

/-- The output buffer at the end of a command: a string within its capacity after a string result, else nothing. -/
theorem Ends.output {s t : State} (h : Ends s t) :
    (t.ob = [] ∧ t.olen = 0) ∨
      t.st = .parsed ∧ ∃ x, t.ob = Memory.ofString x ∧ t.olen = x.length ∧ x.length ≤ Config.lMax := by
  have hmax := Config.sixty_le_lMax
  cases h with
  | text x hx => exact .inr ⟨rfl, x, Memory.writeString_empty x, rfl, by omega⟩
  | sum x => exact .inr ⟨rfl, _, Memory.writeString_empty _, rfl, by rw [crcHex, hex16_length]; omega⟩
  | typeCode u _ => exact .inr ⟨rfl, _, Memory.writeString_empty _, rfl, by rw [hex16_length]; omega⟩
  | frame body hb | frameAs _ body hb =>
    exact .inr ⟨rfl, _, Memory.writeString_empty _, rfl, by rw [withCrc_length]; exact hb⟩
  | _ => exact .inl ⟨rfl, rfl⟩

/-- `M.CODE` is the code of `M.TAG`, where both hold a value (10_state.md R26). -/
def State.CodeOfTag (s : State) : Prop := ∀ t c, s.tag = some t → s.code = some c → c = s.reg.get t

theorem keepIf_eq_some {α : Type} {b : Bool} {x : Option α} {a : α} (h : keepIf b x = some a) : x = some a := by
  cases b with
  | false => cases h
  | true => exact h

theorem State.CodeOfTag.start {s : State} (h : s.CodeOfTag) (k : Kept) : (s.start k).CodeOfTag :=
  fun t c ht hc => h t c (keepIf_eq_some ht) (keepIf_eq_some hc)

theorem State.codeOfTag_asVariant (t : Tag) (s : State) : (s.asVariant t).CodeOfTag := by
  rintro _ _ ⟨⟩ ⟨⟩
  rfl

theorem Ends.codeOfTag {s t : State} (h : Ends s t) (hs : s.CodeOfTag) : t.CodeOfTag := by
  cases h with
  | failed k _ | refused k _ => exact hs.start k
  | failedAs u _ | refusedAs u _ | frameAs u _ _ => exact (State.codeOfTag_asVariant u s).start .ofMessage
  | frame _ _ => exact hs.start .ofMessage
  | corrupted _ | value _ | text _ _ | sum _ => nofun
  | identified c u hu =>
    rintro _ _ ⟨⟩ ⟨⟩
    exact (Registry.get_of_lookup hu).symm
  | typeCode u hu =>
    rintro v _ hv ⟨⟩
    obtain rfl : u = v := Option.some.inj (hu.symm.trans hv)
    rfl
  | parsed m hc _ _ =>
    rintro _ _ ⟨⟩ ⟨⟩
    exact hc
  | decoded _ _ _ _ =>
    rintro _ _ ⟨⟩ ⟨⟩
    rfl

/-- Every end of a command establishes the invariant from the tables, the input buffer and the code of the tag; of the
rest of the state it is begun in it asks nothing. -/
theorem Ends.inv {s t : State} (h : Ends s t) (hreg : s.reg.wf = true) (hvt : VariantTable.wf s.f.length s.vt = true)
    (hf : 5 ≤ s.f.length) (hib : s.ib.Holds s.ilen) (hcode : s.CodeOfTag) : t.Inv := by
  obtain ⟨htreg, htvt, htf⟩ := State.tables_eq.mp h.tables
  obtain ⟨htib, htilen, -, -⟩ := h.inputs
  have hstatus := h.status
  refine { registry := htreg ▸ hreg, variants := ?variants, fieldRegisters := htf ▸ hf, inputBuffer := ?inputBuffer,
           outputBuffer := ?outputBuffer, outputFits := ?outputFits, errorRecord := ?_, refusalRecord := ?_,
           resultsWhenParsed := ?resultsWhenParsed,
           codeOfTag := h.codeOfTag hcode }
  case variants => rw [htf, htvt]; exact hvt
  case inputBuffer => rw [htib, htilen]; exact hib
  case outputBuffer =>
    rcases h.output with ⟨hob, holen⟩ | ⟨-, x, hob, holen, -⟩
    · rw [hob, holen]; exact .empty
    · rw [hob, holen]; exact .ofString x
  case outputFits =>
    rcases h.output with ⟨-, holen⟩ | ⟨-, x, -, holen, hx⟩
    · rw [holen]; exact Nat.zero_le _
    · rw [holen]; exact hx
  case resultsWhenParsed =>
    rcases h.output with ⟨-, holen⟩ | ⟨hst, -⟩
    · exact fun _ => holen
    · exact fun hne => absurd hst hne
  all_goals rcases hstatus with ⟨hst, herr, href⟩ | ⟨hst, herr, href⟩ | ⟨hst, herr, href⟩ <;> simp [*]

theorem runCommand_ends {word : List Byte} {o : Operands} {s t : State} (h : runCommand word o s = .next t) :
    o.fields.length ≤ s.f.length ∧ Ends (s.load o) t := by
  rcases Nat.lt_or_ge s.f.length o.fields.length with hf | hf
  · rw [runCommand_of_tooManyFields hf] at h
    cases h
  · refine ⟨hf, ?_⟩
    cases hd : decode s.reg word with
    | ok i =>
      rw [runCommand_of_ok hf hd] at h
      exact exec_ends h
    | error e =>
      rw [runCommand_of_error hf hd] at h
      rcases badWord_cases e (s.load o) with ⟨-, hb⟩ | ⟨-, k, err, hb⟩
      · cases hb.symm.trans h
      · cases hb.symm.trans h
        exact .failed k err

theorem State.Inv.runCommand {s t : State} (h : s.Inv) {word : List Byte} {o : Operands}
    (hrun : runCommand word o s = .next t) : t.Inv := by
  obtain ⟨hf, hends⟩ := runCommand_ends hrun
  have hlen : (s.load o).f.length = s.f.length := (State.tables_eq.mp (State.load_tables hf)).2.2
  refine hends.inv h.registry (hlen ▸ h.variants) (hlen ▸ h.fieldRegisters) (.ofString o.ib) fun u c hu hc => ?_
  rw [State.load_tag] at hu
  rw [State.load_code, hu] at hc
  exact (Option.some.inj hc).symm

/-- Settles O43: a step with no input changes nothing; a reset keeps the invariant, and every end of a command
establishes it again. -/
theorem everyStepKeepsTheInvariant : Obligations.EveryStepKeepsTheInvariant := by
  intro s t hs h
  match hq : s.queue with
  | [] =>
    cases (step_of_queue_nil hq).symm.trans h
    exact hs
  | .reset :: rest =>
    have hrest : State.Inv { s with queue := rest } := { hs with }
    cases (step_of_queue_cons hq).symm.trans h
    exact hrest.hostReset
  | .command word o :: rest =>
    have hrest : State.Inv { s with queue := rest } := { hs with }
    exact hrest.runCommand ((step_of_queue_cons hq).symm.trans h)

end Sys2Proof.Machine
end

section
/-! PROOFS. The commands of the HEX unit and of the registry (40_hexcodec.md R100 to R109; 42_registry.md R151, R152): the
functions `encU` and `decU` in every case, and the whole state after each command. -/

namespace Sys2Proof

@[simp] theorem digitString_length (w v : Nat) : (digitString w v).length = w := by simp [digitString]

theorem encU_eq_ite (v w : Nat) : encU v w = if v < 16 ^ w then some (digitString w v) else none := by
  rw [encU, hexDigits_eq_digitString]
  split
  next h => rw [if_neg (Nat.not_lt.mpr h)]
  next h => rw [if_pos (Nat.not_le.mp h)]

theorem hexDigits_zero (w : Nat) : hexDigits w 0 = List.replicate w 0x30 := by
  induction w with
  | zero => rfl
  | succ w ih =>
    rw [hexDigits, ih, Nat.zero_div, List.replicate_succ]
    rfl

/-- All digits of the largest value are `F`: of `16^(w+1) - 1` the last is, and the others are those of `16^w - 1`. -/
theorem hexDigits_max (w : Nat) : hexDigits w (16 ^ w - 1) = List.replicate w 0x46 := by
  induction w with
  | zero => rfl
  | succ w ih =>
    have hpos : 0 < 16 ^ w := Nat.pow_pos (by decide)
    have hdiv : (16 ^ (w + 1) - 1) / 16 ^ 1 = 16 ^ w - 1 := by omega
    have hmod : (16 ^ (w + 1) - 1) % 16 = 15 := by omega
    have hlast : hexDigits 1 (16 ^ (w + 1) - 1) = [0x46] := by
      simp only [hexDigits, Nat.pow_zero, Nat.div_one, hmod]
      rfl
    rw [hexDigits_add, hdiv, ih, hlast, List.replicate_succ']

theorem hexChar_is_digit : ∀ d : Fin 16,
    (0x30 ≤ (hexChar d).toNat ∧ (hexChar d).toNat ≤ 0x39) ∨ (0x41 ≤ (hexChar d).toNat ∧ (hexChar d).toNat ≤ 0x46) := by
  decide

/-- A rendered string holds the digits 0 to 9 and A to F only. -/
theorem mem_hexDigits {w v : Nat} {c : Byte} (h : c ∈ hexDigits w v) :
    (0x30 ≤ c.toNat ∧ c.toNat ≤ 0x39) ∨ (0x41 ≤ c.toNat ∧ c.toNat ≤ 0x46) := by
  induction w with
  | zero => cases h
  | succ w ih =>
    rcases List.mem_cons.mp h with rfl | h
    · exact hexChar_is_digit ⟨_, Nat.mod_lt _ (by decide)⟩
    · exact ih h

theorem allHex_eq_false {s : List Byte} : allHex s = false ↔ ∃ c ∈ s, isHex c = false := by
  simp [allHex]

theorem decU_eq_none {s : List Byte} : decU s = none ↔ s = [] ∨ ∃ c ∈ s, isHex c = false := by
  by_cases h0 : s = []
  · simp [decU, h0]
  · cases h : allHex s with
    | true => simpa [decU_of_allHex h0 h, h0] using allHex_iff.mp h
    | false => exact iff_of_true (by simp [decU, h0, h]) (.inr (allHex_eq_false.mp h))

theorem decU_of_digits {x : List Byte} (h0 : x ≠ []) (h : ∀ c ∈ x, isHex c = true) : decU x = some (digitValue x) := by
  rw [decU_of_allHex h0 (allHex_iff.mpr h), hexValue_eq_digitValue]

theorem digitValue_lt {x : List Byte} (h : ∀ c ∈ x, isHex c = true) : digitValue x < 16 ^ x.length :=
  hexValue_eq_digitValue x ▸ hexValue_lt (allHex_iff.mpr h)

theorem hexValue_zero_cons (x : List Byte) : hexValue (0x30 :: x) = hexValue x := rfl

/-- The case of the digits does not change what a string is read as: its upper case is what its value is written as. -/
theorem decU_upper {x : List Byte} (h0 : x ≠ []) (h : allHex x = true) : decU (upper x) = some (hexValue x) := by
  have hlen : x.length ≠ 0 := fun hl => h0 (List.length_eq_zero_iff.mp hl)
  rw [← hexDigits_hexValue h, decU_hexDigits hlen, Nat.mod_eq_of_lt (hexValue_lt h)]

namespace Machine

@[simp] theorem needValue_some {α : Type} (r : Reg) (v : α) : needValue r (some v) = .ok v := rfl

@[simp] theorem needValue_none {α : Type} (r : Reg) :
    needValue r (none : Option α) = .error (.refuse (.noValue r)) := rfl

/-! ### The operand string -/

theorem State.HoldsInput.fixedInput {s : State} {x : List Byte} {n : Nat} (h : s.HoldsInput x) (hlen : x.length = n) :
    s.fixedInput n = .ok x :=
  fixedInput_eq_ok.mpr ⟨h.1.trans hlen, h.input⟩

theorem fixedInput_of_ne {s : State} {n : Nat} (h : s.ilen ≠ n) : s.fixedInput n = .error (.refuse .operandLength) :=
  if_neg h

theorem input_of_tooLong {s : State} (h : Config.lMax < s.ilen) : s.input = .error (.refuse .tooLong) :=
  if_neg (Nat.not_le.mpr h)

theorem decodeField_of_decU {t : List Byte} {v : Nat} (fld : ErrField) (h : decU t = some v) : decodeField fld t = .ok v :=
  decodeField_eq_ok.mpr h

/-! ### The encoders -/

section Encoders

variable {s : State} {v : Word} {n : Nat} {pick : Word → Nat}

theorem hexEncode_of_lt (hv : s.val = some v) (h : pick v < 16 ^ n) :
    hexEncode n pick s = .next
      { s.blank with val := some v, ob := Memory.ofString (digitString n (pick v)), olen := n } := by
  rw [hexEncode, State.readVal, hv, needValue_some, ok_bind, encodeField_of_lt _ h, finish_ok, State.start_ofVal_out,
    digitString_length, hv]

theorem hexEncode_overflow (hv : s.val = some v) (h : 16 ^ n ≤ pick v) :
    hexEncode n pick s = .next { s.blankFailed (.fieldOverflow .value) with val := some v } := by
  rw [hexEncode, State.readVal, hv, needValue_some, ok_bind, encodeField_overflow _ h, finish_error, after_raise,
    State.start_ofVal_fail, hv]

theorem State.start_ofVal_refused_noValue (hv : s.val = none) (r : RefusalReason) :
    (s.start .ofVal).refused r = s.blankRefused r := by
  rw [State.start_ofVal_refused, hv]
  rfl

theorem hexEncode_noValue (hv : s.val = none) : hexEncode n pick s = .next (s.blankRefused (.noValue .val)) := by
  rw [hexEncode, State.readVal, hv, needValue_none, error_bind, finish_error, after_refuse,
    State.start_ofVal_refused_noValue hv]

end Encoders

section Encu

variable {s : State} {v : Word} {w : BitVec 5}

/-- The checks of `HEX.ENCU` when both operands hold a value and the width is one. -/
theorem exec_hexEncu_of_width (hv : s.val = some v) (hw : s.w = some w) (hwidth : 1 ≤ w.toNat ∧ w.toNat ≤ 16) :
    exec .hexEncu s =
      finish (s.start .ofVal) (encodeField .value v.toNat w.toNat) (fun t => (s.start .ofVal).out t) := by
  have hin : 1 ≤ w.toNat ∧ w.toNat ≤ Config.wMax := hwidth
  rw [exec, execHexEncu, State.readVal, State.readW, hv, hw, needValue_some, needValue_some, ok_bind, ok_bind,
    require_pos hin, ok_bind]

theorem exec_hexEncu_of_lt (hv : s.val = some v) (hw : s.w = some w) (hwidth : 1 ≤ w.toNat ∧ w.toNat ≤ 16)
    (h : v.toNat < 16 ^ w.toNat) :
    exec .hexEncu s = .next
      { s.blank with val := some v, ob := Memory.ofString (digitString w.toNat v.toNat), olen := w.toNat } := by
  rw [exec_hexEncu_of_width hv hw hwidth, encodeField_of_lt _ h, finish_ok, State.start_ofVal_out, digitString_length, hv]

theorem exec_hexEncu_overflow (hv : s.val = some v) (hw : s.w = some w) (hwidth : 1 ≤ w.toNat ∧ w.toNat ≤ 16)
    (h : 16 ^ w.toNat ≤ v.toNat) :
    exec .hexEncu s = .next { s.blankFailed (.fieldOverflow .value) with val := some v } := by
  rw [exec_hexEncu_of_width hv hw hwidth, encodeField_overflow _ h, finish_error, after_raise, State.start_ofVal_fail, hv]

theorem exec_hexEncu_widthOutside (hv : s.val = some v) (hw : s.w = some w) (hwidth : w.toNat < 1 ∨ 16 < w.toNat) :
    exec .hexEncu s = .next { s.blankRefused .widthOutside with val := some v } := by
  have hout : ¬ (1 ≤ w.toNat ∧ w.toNat ≤ Config.wMax) := by
    rw [Config.wMax]
    omega
  rw [exec, execHexEncu, State.readVal, State.readW, hv, hw, needValue_some, needValue_some, ok_bind, ok_bind,
    require_neg hout, error_bind, finish_error, after_refuse, State.start_ofVal_refused, hv]

theorem exec_hexEncu_noValue (hv : s.val = none) : exec .hexEncu s = .next (s.blankRefused (.noValue .val)) := by
  rw [exec, execHexEncu, State.readVal, hv, needValue_none, error_bind, finish_error, after_refuse,
    State.start_ofVal_refused_noValue hv]

theorem exec_hexEncu_noWidth (hv : s.val = some v) (hw : s.w = none) :
    exec .hexEncu s = .next { s.blankRefused (.noValue .w) with val := s.val } := by
  rw [exec, execHexEncu, State.readVal, State.readW, hv, hw, needValue_some, ok_bind, needValue_none, error_bind,
    finish_error, after_refuse, State.start_ofVal_refused, hv]

end Encu

/-- Settles O7: the digits of the least and the largest value, and the command in each case of `encU`. -/
theorem encodeUnsignedWritesTheDigits : Obligations.EncodeUnsignedWritesTheDigits := by
  refine ⟨rfl, encU_eq_ite, fun w => ⟨?_, ?_, ?_⟩, fun v w t h => ?_, fun s v w hv hw => ⟨fun h1 h16 => ?_, fun h1 h16 => ?_, ?_⟩⟩
  · exact encU_eq_some.mpr ⟨Nat.pow_pos (by decide), (hexDigits_zero w).symm⟩
  · exact encU_eq_some.mpr ⟨Nat.sub_one_lt (Nat.pow_pos (by decide)).ne', (hexDigits_max w).symm⟩
  · exact if_pos (Nat.le_refl _)
  · obtain ⟨-, rfl⟩ := encU_eq_some.mp h
    exact ⟨hexDigits_length w v, fun c => mem_hexDigits⟩
  · exact exec_hexEncu_of_lt hv hw ⟨h1, h16⟩
  · exact exec_hexEncu_overflow hv hw ⟨h1, h16⟩
  · exact exec_hexEncu_widthOutside hv hw

/-- Settles O9: each command is `hexEncode` of its width; 32 bits fill 8 digits and 64 bits 16, so that these two never
overflow. -/
theorem fixedWidthEncodersWriteTheDigits : Obligations.FixedWidthEncodersWriteTheDigits := by
  refine ⟨⟨rfl, rfl, rfl, rfl⟩, fun s v hv => ⟨?_, fun h => ?_, fun h => ?_, fun h => ?_, fun h => ?_, ?_⟩⟩
  · rw [← BitVec.toNat_setWidth]
    exact hexEncode_of_lt (n := 8) (pick := fun v => (v.setWidth 32).toNat) hv (v.setWidth 32).isLt
  · exact hexEncode_of_lt (n := 2) (pick := BitVec.toNat) hv (Nat.lt_succ_of_le h)
  · exact hexEncode_overflow (n := 2) (pick := BitVec.toNat) hv h
  · exact hexEncode_of_lt (n := 4) (pick := BitVec.toNat) hv (Nat.lt_succ_of_le h)
  · exact hexEncode_overflow (n := 4) (pick := BitVec.toNat) hv h
  · exact hexEncode_of_lt (n := 16) (pick := BitVec.toNat) hv v.isLt

/-! ### The decoders -/

section Decoders

variable {s : State} {x : List Byte} {n : Nat}

theorem hexDecode_of_digits (hx : s.HoldsInput x) (hlen : x.length = n) {v : Nat} (h : decU x = some v) :
    hexDecode n s = .next { s.blank with val := some (BitVec.ofNat 64 v) } := by
  rw [hexDecode, hx.fixedInput hlen, ok_bind, decodeField_of_decU _ h, finish_ok, State.start_nothing_value]

theorem hexDecode_malformed (hx : s.HoldsInput x) (hlen : x.length = n) (h : decU x = none) :
    hexDecode n s = .next (s.blankFailed (.malformedHex .value)) := by
  rw [hexDecode, hx.fixedInput hlen, ok_bind, decodeField_malformed _ h, finish_error, after_raise,
    State.start_nothing_fail]

theorem hexDecode_of_ne (h : s.ilen ≠ n) : hexDecode n s = .next (s.blankRefused .operandLength) := by
  rw [hexDecode, fixedInput_of_ne h, error_bind, finish_error, after_refuse, State.start_nothing_refused]

/-- The checks of `HEX.DECU` of a string that is no longer than the widest field. -/
theorem exec_hexDecu_of_input (hx : s.HoldsInput x) (hlen : x.length ≤ 16) :
    exec .hexDecu s =
      finish (s.start .nothing) (decodeField .value x) (fun v => (s.start .nothing).value v) := by
  have hilen : s.ilen ≤ Config.wMax := hx.1 ▸ hlen
  rw [exec, execHexDecu, require_pos hilen, ok_bind, hx.input, ok_bind]

theorem exec_hexDecu_of_digits (hx : s.HoldsInput x) (hlen : x.length ≤ 16) {v : Nat} (h : decU x = some v) :
    exec .hexDecu s = .next { s.blank with val := some (BitVec.ofNat 64 v) } := by
  rw [exec_hexDecu_of_input hx hlen, decodeField_of_decU _ h, finish_ok, State.start_nothing_value]

theorem exec_hexDecu_malformed (hx : s.HoldsInput x) (hlen : x.length ≤ 16) (h : decU x = none) :
    exec .hexDecu s = .next (s.blankFailed (.malformedHex .value)) := by
  rw [exec_hexDecu_of_input hx hlen, decodeField_malformed _ h, finish_error, after_raise, State.start_nothing_fail]

theorem exec_hexDecu_of_lt (h : 16 < s.ilen) : exec .hexDecu s = .next (s.blankRefused .operandLength) := by
  have hilen : ¬ s.ilen ≤ Config.wMax := Nat.not_le.mpr h
  rw [exec, execHexDecu, require_neg hilen, error_bind, finish_error, after_refuse, State.start_nothing_refused]

end Decoders

/-- Settles O8: `decU` in each of its cases, and the command in each case of `decU`. -/
theorem decodeUnsignedReadsTheDigits : Obligations.DecodeUnsignedReadsTheDigits := by
  refine ⟨rfl, fun x h0 hx => ⟨decU_of_digits h0 hx, digitValue_lt hx, ?_, ?_⟩, fun x h => decU_eq_none.mpr h,
    fun s x hin => ⟨fun h0 hlen hx => ⟨exec_hexDecu_of_digits hin hlen (decU_of_digits h0 hx), ?_⟩,
      fun hlen h => exec_hexDecu_malformed hin hlen (decU_eq_none.mpr h), fun h => exec_hexDecu_of_lt (hin.1 ▸ h)⟩⟩
  · rw [decU_of_allHex (List.cons_ne_nil _ _) (by simpa [allHex] using ⟨by decide, hx⟩), hexValue_zero_cons,
      hexValue_eq_digitValue]
  · rw [decU_upper h0 (allHex_iff.mpr hx), hexValue_eq_digitValue]
  · calc digitValue x < 16 ^ x.length := digitValue_lt hx
      _ ≤ 16 ^ 16 := Nat.pow_le_pow_right (by decide) hlen

/-- Settles O10: each command is `hexDecode` of its length. -/
theorem fixedWidthDecodersReadTheDigits : Obligations.FixedWidthDecodersReadTheDigits := by
  refine ⟨⟨rfl, rfl, rfl, rfl⟩, fun s x i n hin hi => ?_⟩
  have hexec : exec i s = hexDecode n s := by
    rcases hi with ⟨rfl, rfl⟩ | ⟨rfl, rfl⟩ | ⟨rfl, rfl⟩ | ⟨rfl, rfl⟩ <;> rfl
  have hn : 0 < n := by omega
  rw [hexec]
  refine ⟨fun hlen hx => ⟨?_, hlen ▸ digitValue_lt hx, ?_⟩, fun hlen h => ?_, fun hlen => ?_⟩
  · exact hexDecode_of_digits hin hlen (decU_of_digits (List.ne_nil_of_length_pos (hlen ▸ hn)) hx)
  · rw [← hlen, ← hexValue_eq_digitValue]
    exact encU_hexValue (allHex_iff.mpr hx)
  · exact hexDecode_malformed hin hlen (decU_eq_none.mpr (.inr h))
  · exact hexDecode_of_ne (hin.1 ▸ hlen)

/-! ### The registry -/

section Fromcode

variable {s : State} {x : List Byte}

theorem identify_of_lookup_none {c : BitVec 16} (h : s.reg.lookup c = none) :
    identify c (s.start .nothing) = s.blankFailed (.unknownMessageType c) := by
  rw [identify, State.start_reg, h, ← State.start_nothing_fail]

theorem identify_of_lookup {c : BitVec 16} {t : Tag} (h : s.reg.lookup c = some t) :
    identify c (s.start .nothing) = { s.blank with tag := some t, code := some c } := by
  rw [identify, State.start_reg, h, State.start_nothing]
  rfl

theorem exec_regFromcode_of_digits (hin : s.HoldsInput x) (hlen : x.length = 4) {c : Nat} (h : decU x = some c) :
    exec .regFromcode s = .next (identify (BitVec.ofNat 16 c) (s.start .nothing)) := by
  rw [exec, execRegFromcode, hin.fixedInput hlen, ok_bind, decodeField_of_decU _ h, finish_ok]

theorem exec_regFromcode_malformed (hin : s.HoldsInput x) (hlen : x.length = 4) (h : decU x = none) :
    exec .regFromcode s = .next (s.blankFailed (.malformedHex .typeCode)) := by
  rw [exec, execRegFromcode, hin.fixedInput hlen, ok_bind, decodeField_malformed _ h, finish_error, after_raise,
    State.start_nothing_fail]

theorem exec_regFromcode_of_ne (h : s.ilen ≠ 4) : exec .regFromcode s = .next (s.blankRefused .operandLength) := by
  rw [exec, execRegFromcode, fixedInput_of_ne h, error_bind, finish_error, after_refuse, State.start_nothing_refused]

end Fromcode

/-- A code of four digits is compared as a number (42_registry.md R151). -/
theorem eq_ofNat_iff {b : BitVec 16} {v : Nat} (h : v < 2 ^ 16) : b = BitVec.ofNat 16 v ↔ b.toNat = v := by
  rw [← BitVec.toNat_inj, BitVec.toNat_ofNat, Nat.mod_eq_of_lt h]

/-- Settles O19: the string is read as a number (`decU`), and the number is looked up (`identify`). -/
theorem fromCodeFindsTheVariant : Obligations.FromCodeFindsTheVariant := by
  refine ⟨rfl, fun s x hwf hin => ?_⟩
  have hdec : x.length = 4 → (∀ c ∈ x, isHex c = true) → decU x = some (digitValue x) := fun hlen hx =>
    decU_of_digits (List.ne_nil_of_length_pos (hlen ▸ (by decide))) hx
  have hlt : x.length = 4 → (∀ c ∈ x, isHex c = true) → digitValue x < 2 ^ 16 := fun hlen hx => by
    simpa [hlen] using digitValue_lt hx
  refine ⟨fun hlen h => exec_regFromcode_malformed hin hlen (decU_eq_none.mpr (.inr h)), fun hlen hx hne => ?_,
    fun t hlen hx heq => ?_, ?_, fun hlen => exec_regFromcode_of_ne (hin.1 ▸ hlen)⟩
  · rw [exec_regFromcode_of_digits hin hlen (hdec hlen hx), identify_of_lookup_none]
    exact Registry.lookup_eq_none.mpr fun t ht => hne t ((eq_ofNat_iff (hlt hlen hx)).mp ht)
  · have ht : s.reg.get t = BitVec.ofNat 16 (digitValue x) := (eq_ofNat_iff (hlt hlen hx)).mpr heq
    rw [exec_regFromcode_of_digits hin hlen (hdec hlen hx), ← ht,
      identify_of_lookup ((Registry.lookup_eq_some hwf).mpr rfl)]
  · rintro rfl
    have hnone : s.reg.lookup 0xFFFF = none := Registry.lookup_eq_none.mpr (Registry.wf_not_ffff hwf)
    exact (exec_regFromcode_of_digits hin rfl (c := 0xFFFF) rfl).trans (congrArg _ (identify_of_lookup_none hnone))

theorem exec_regTocode {s : State} {t : Tag} (ht : s.tag = some t) :
    exec .regTocode s = .next { s.blank with
      tag := some t, code := some (s.reg.get t), ob := Memory.ofString (digitString 4 (s.reg.get t).toNat),
      olen := 4 } := by
  rw [exec, execRegTocode, State.readTag, ht, needValue_some, finish_ok, State.start_ofTag, ht,
    ← hexDigits_eq_digitString, ← Memory.writeString_empty]
  rfl

/-- Settles O20: the state after by `exec_regTocode`, the laws of `lookup` by `Registry.lookup_eq_some`. -/
theorem toCodeIsTotal : Obligations.ToCodeIsTotal :=
  ⟨rfl, fun _ _ => exec_regTocode, fun _ hwf =>
    ⟨fun _ => (Registry.lookup_eq_some hwf).mpr rfl, fun _ _ => Registry.get_of_lookup⟩⟩

/-! ### Refusals -/

theorem exec_regTocode_noValue {s : State} (ht : s.tag = none) :
    exec .regTocode s = .next (s.blankRefused (.noValue .tag)) := by
  rw [exec, execRegTocode, State.readTag, ht, needValue_none, finish_error, after_refuse, State.start_ofTag_refused, ht]
  rfl

theorem exec_frmEncode_noValue {s : State} (ht : s.tag = none) :
    exec .frmEncode s = .next (s.messageRefused (.noValue .tag)) := by
  rw [exec, execFrmEncode, State.readTag, ht, needValue_none, error_bind, finish_error, after_refuse,
    State.start_ofMessage_refused]

/-- Settles O13: each command reads its operands before anything else. -/
theorem operandWithoutValueIsRefused : Obligations.OperandWithoutValueIsRefused := by
  refine fun s => ⟨fun hv i hi => ?_, fun hv hw => ?_, fun ht => ⟨exec_regTocode_noValue ht, exec_frmEncode_noValue ht⟩⟩
  · rcases hi with rfl | rfl | rfl | rfl | rfl
    · exact exec_hexEncu_noValue hv
    all_goals exact hexEncode_noValue hv
  · obtain ⟨v, hv⟩ := Option.isSome_iff_exists.mp hv
    exact exec_hexEncu_noWidth hv hw

theorem parseFrame_of_tooLong (select : BitVec 16 → Except Stop (Tag × Grammar)) {s : State} (h : Config.lMax < s.ilen) :
    parseFrame select s = .next (s.blankRefused .tooLong) := by
  rw [parseFrame, input_of_tooLong h, error_bind, finish_error, after_refuse, State.start_nothing_refused]

theorem decodeAs_of_tooLong (t : Tag) {s : State} (h : Config.lMax < s.ilen) :
    decodeAs t s = .next { s.blankRefused .tooLong with seq := s.seq } := by
  rw [decodeAs, input_of_tooLong h, error_bind, finish_error, after_refuse, State.start_ofSeq_refused]

/-- Settles O55: no command reads the characters of a string before its length; the decoders of a fixed length and
`HEX.DECU` refuse for that length, which is below `L_MAX`. -/
theorem stringsLongerThanTheBufferAreRefused : Obligations.StringsLongerThanTheBufferAreRefused := by
  intro s h
  have hlong : 60 < s.ilen := Nat.lt_of_le_of_lt Config.sixty_le_lMax h
  refine ⟨?_, parseFrame_of_tooLong _ h, ?_, fun t => ⟨?_, ?_⟩, fun i hi => ?_⟩
  · rw [exec, execCrcCompute, input_of_tooLong h, finish_error, after_refuse, State.start_nothing_refused]
  · have h4 : 4 ≤ s.ilen := by omega
    rw [exec, execMsgDecode, require_pos h4, ok_bind, input_of_tooLong h, error_bind, finish_error, after_refuse,
      State.start_ofSeq_refused]
  · rw [exec_instr]
    exact parseFrame_of_tooLong _ h
  · rw [exec_instr]
    exact decodeAs_of_tooLong t h
  · simp only [List.mem_cons, List.not_mem_nil, or_false] at hi
    rcases hi with rfl | rfl | rfl | rfl | rfl | rfl
    · exact exec_hexDecu_of_lt (by omega)
    · exact hexDecode_of_ne (n := 8) (by omega)
    · exact hexDecode_of_ne (n := 2) (by omega)
    · exact hexDecode_of_ne (n := 4) (by omega)
    · exact hexDecode_of_ne (n := 16) (by omega)
    · exact exec_regFromcode_of_ne (by omega)

end Machine
end Sys2Proof
end

section
/-! PROOFS. Encoding a frame (43_framing.md R170, R177; 30_encoding.md R71). The fields before any field that does not fit
are rendered as their digits (`render_append`), so that each outcome of `render` is decided by the first such field; the
outcome of the command is that of `frameBody`. -/

namespace Sys2Proof

theorem hex16_eq_digitString (c : BitVec 16) : hex16 c = digitString 4 c.toNat := hexDigits_eq_digitString 4 _

theorem hex64_eq_digitString (v : Word) : hex64 v = digitString 16 v.toNat := hexDigits_eq_digitString 16 _

/-- The values that fit are those of the fields one by one. -/
theorem forall₂_of_allFit : ∀ {ks : List Kind} {vs : List Word}, allFit ks vs → List.Forall₂ Kind.fits ks vs
  | [], [], _ => .nil
  | _ :: _, _ :: _, ⟨hv, hvs⟩ => .cons hv (forall₂_of_allFit hvs)
  | [], _ :: _, h | _ :: _, [], h => h.elim

theorem payloadText_cons (k : Kind) (ks : List Kind) (v : Word) (vs : List Word) :
    payloadText (k :: ks) (v :: vs) = k.text v ++ payloadText ks vs := rfl

namespace Machine

/-- The MAC of an outbound frame as its digits, nothing without one. -/
def macText (m : Option Word) : List Byte := (m.map hex64).getD []

theorem outboundBody_eq (row : VtRow) (code : BitVec 16) (q : Option (BitVec 16)) (m : Option Word) (p : List Byte) :
    outboundBody code row.seqTx q m p = hex16 code ++ seqField row q ++ macText m ++ p := by
  cases q <;> cases m <;>
    simp [outboundBody, seqField, macText, hex16_eq_digitString, hex64_eq_digitString]

theorem outboundFrame_eq_withCrc (body : List Byte) : outboundFrame body = withCrc body := by
  rw [withCrc, crcHex_eq_digitString, outboundFrame]

theorem macField_of_isSome {g : Grammar} {m : Option Word} (h : g.hasMac = true → m.isSome = true) :
    macField g m = .ok (macText (if g.hasMac then m else none)) := by
  unfold macField
  split
  next hmac =>
    obtain ⟨v, rfl⟩ := Option.isSome_iff_exists.mp (h hmac)
    rfl
  next => rfl

theorem macField_missing {g : Grammar} (h : g.hasMac = true) : macField g none = .error (.refuse .missingMac) := if_pos h

/-- Fields that fit are rendered as their digits, and what follows them is rendered after them. -/
theorem render_append {ks : List Kind} {vs : List Word} (h : allFit ks vs) (j : Nat) (ks' : List Kind)
    (fs : List (Option Word)) :
    render j (ks ++ ks') (vs.map some ++ fs) = (render (j + ks.length) ks' fs).map (payloadText ks vs ++ ·) := by
  induction forall₂_of_allFit h generalizing j with
  | nil =>
    show render j ks' fs = (render j ks' fs).map _
    cases render j ks' fs <;> rfl
  | @cons k v ks vs hv hvs ih =>
    have hj : j + 1 + ks.length = j + (ks.length + 1) := by omega
    rw [List.cons_append, List.map_cons, List.cons_append, render, encKind_of_fits j hv, ok_bind, ih h.2, hj,
      List.length_cons]
    cases render (j + (ks.length + 1)) ks' fs with
    | ok p => exact congrArg Except.ok (List.append_assoc _ _ p).symm
    | error e => rfl

theorem render_of_allFit {ks : List Kind} {vs : List Word} (h : allFit ks vs) (j : Nat) (rest : List (Option Word)) :
    render j ks (vs.map some ++ rest) = .ok (payloadText ks vs) := by
  have happ := render_append h j [] rest
  rw [List.append_nil] at happ
  rw [happ, render]
  exact congrArg Except.ok (List.append_nil _)

/-- A stop at a field that follows fields that fit is the stop of the payload. -/
theorem render_append_error {ks ks' : List Kind} {vs : List Word} {fs : List (Option Word)} {e : Stop} (h : allFit ks vs)
    (he : render ks.length ks' fs = .error e) : render 0 (ks ++ ks') (vs.map some ++ fs) = .error e := by
  rw [render_append h, Nat.zero_add, he]
  rfl

theorem render_cons_error {k : Kind} {v : Word} {j : Nat} {e : Stop} (h : encKind j k v = .error e) (ks : List Kind)
    (fs : List (Option Word)) : render j (k :: ks) (some v :: fs) = .error e := by
  rw [render, h, error_bind]

/-! ### The body of a frame -/

section Body

variable {s : State} {t : Tag} {g : Grammar}

theorem frameBody_of_grammar_none (hg : (s.vt.get t).grammar = none) :
    frameBody t s = .error (.refuse (.grammarNotSupplied t)) := by
  rw [frameBody, hg]
  rfl

theorem frameBody_of_missingMac (hg : (s.vt.get t).grammar = some g) (hmac : g.hasMac = true) (hm : s.mac = none) :
    frameBody t s = .error (.refuse .missingMac) := by
  simp only [frameBody, hg, hm, macField_missing hmac, error_bind]

theorem frameBody_of_render_error (hg : (s.vt.get t).grammar = some g) (hmac : g.hasMac = true → s.mac.isSome = true)
    {e : Stop} (he : render 0 g.fields s.f = .error e) : frameBody t s = .error e := by
  simp only [frameBody, hg, macField_of_isSome hmac, ok_bind, he, error_bind]

/-- With every part of it given, the body of a frame stands or falls with `L_MAX`. -/
theorem frameBody_of_render_ok (hg : (s.vt.get t).grammar = some g) (hmac : g.hasMac = true → s.mac.isSome = true)
    {p body : List Byte} (hp : render 0 g.fields s.f = .ok p)
    (hbody : body = outboundBody (s.reg.get t) (s.vt.get t).seqTx s.seq (if g.hasMac then s.mac else none) p) :
    frameBody t s = if body.length + 4 ≤ Config.lMax then .ok body else .error (.refuse .tooLong) := by
  rw [outboundBody_eq] at hbody
  simp only [frameBody, hg, macField_of_isSome hmac, ok_bind, hp, ← hbody]
  split
  next h => rw [require_pos h]; rfl
  next h => rw [require_neg h]; rfl

theorem exec_frmEncode_eq_assemble (ht : s.tag = some t) : exec .frmEncode s = assemble t s := by
  rw [exec, execFrmEncode, State.readTag, ht, needValue_some, ok_bind, assemble]

theorem assemble_of_body {body : List Byte} (h : frameBody t s = .ok body) :
    assemble t s = .next { s.messageKept with
      crc := crc16 body, ob := Memory.ofString (withCrc body), olen := body.length + 4 } := by
  rw [assemble, h, finish_ok, State.start_ofMessage_frame]

theorem assemble_of_raise {e : CodecError} (h : frameBody t s = .error (.raise e)) :
    assemble t s = .next { s.messageKept with st := .failed, err := some e } := by
  rw [assemble, h, finish_error, after_raise, State.start_ofMessage_fail]

theorem assemble_of_refuse {r : RefusalReason} (h : frameBody t s = .error (.refuse r)) :
    assemble t s = .next (s.messageRefused r) := by
  rw [assemble, h, finish_error, after_refuse, State.start_ofMessage_refused]

end Body

/-- Settles O30: reading `M.TAG` of a message of a variant gives the variant. -/
theorem variantEncodeIsFrmEncode : Obligations.VariantEncodeIsFrmEncode := by
  intro t s
  rw [exec_instr, exec_frmEncode_eq_assemble (t := t) rfl]
  rfl

/-- Settles O26: fields that fit are rendered (`render_of_allFit`), so the body is that of the outbound frame. -/
theorem encodeWritesTheFrame : Obligations.EncodeWritesTheFrame := by
  intro s t g vs rest body hg hf hfit hmac hbody hlen
  have hp : render 0 g.fields s.f = .ok (payloadText g.fields vs) := hf ▸ render_of_allFit hfit 0 rest
  have hframe : frameBody t s = .ok body := by rw [frameBody_of_render_ok hg hmac hp hbody, if_pos hlen]
  rw [outboundFrame_eq_withCrc]
  refine ⟨fun ht => ?_, ?_⟩
  · rw [exec_frmEncode_eq_assemble ht, assemble_of_body hframe]
  · rw [exec_instr]
    exact assemble_of_body (s := s.asVariant t) hframe

/-- Settles O27: the fields before the one that does not fit are rendered, and it raises the error. -/
theorem firstOverflowingFieldIsReported : Obligations.FirstOverflowingFieldIsReported := by
  intro s t g ks ks' k vs v rest ht hg hmac hfields hf hfit hbool hover
  have hnot : ¬ k.fits v := fun h => Nat.not_le.mpr ((Kind.fits_iff hbool).mp h) hover
  have hrender : render 0 g.fields s.f = .error (.raise (.fieldOverflow (.payload ks.length))) := by
    rw [hfields, hf]
    exact render_append_error hfit (render_cons_error (encKind_overflow ks.length hbool hnot) ks' rest)
  rw [exec_frmEncode_eq_assemble ht, assemble_of_raise (frameBody_of_render_error hg hmac hrender)]

/-- Settles O28: the stops of `frameBody` in their order. -/
theorem encodeRefusesWhatHasNoMeaning : Obligations.EncodeRefusesWhatHasNoMeaning := by
  intro s t ht
  rw [exec_frmEncode_eq_assemble ht]
  refine ⟨fun hg => assemble_of_refuse (frameBody_of_grammar_none hg), fun g hg =>
    ⟨fun hmac hm => assemble_of_refuse (frameBody_of_missingMac hg hmac hm), fun hmac =>
      ⟨fun ks ks' k vs rest hfields hfit => ⟨fun hf => ?_, ?_⟩, fun vs rest hf hfit hlen => ?_⟩⟩⟩
  · refine assemble_of_refuse (frameBody_of_render_error hg hmac ?_)
    rw [hfields, hf]
    exact render_append_error hfit rfl
  · rintro v hf rfl h0 h1
    refine assemble_of_refuse (frameBody_of_render_error hg hmac ?_)
    rw [hfields, hf]
    exact render_append_error hfit (render_cons_error (encKind_bool_of_ne ks.length h0 h1) ks' rest)
  · have hp : render 0 g.fields s.f = .ok (payloadText g.fields vs) := hf ▸ render_of_allFit hfit 0 rest
    refine assemble_of_refuse ?_
    rw [frameBody_of_render_ok hg hmac hp rfl, if_neg (Nat.not_le.mpr hlen)]

end Machine
end Sys2Proof
end

section
/-! PROOFS. The grammar engine on a payload of hex digits (43_framing.md R176): the groups of a payload give the field
values, in order, and the MAC. -/

namespace Sys2Proof

theorem decU_lt {x : List Byte} {v : Nat} (h : decU x = some v) : v < 16 ^ x.length := by
  obtain ⟨-, hhex, rfl⟩ := decU_eq_some.mp h
  exact hexValue_lt hhex

theorem VtRow.grammar_eq_some {r : VtRow} {g : Grammar} :
    r.grammar = some g ↔ r.dir = some g.dir ∧ r.hasMac = some g.hasMac ∧ r.fields = some g.fields := by
  obtain ⟨_, _, dir, mac, fields⟩ := r
  obtain ⟨d, m, ks⟩ := g
  cases dir <;> cases mac <;> cases fields <;> simp [VtRow.grammar]

/-- The values of the groups of a payload that holds no MAC, each group beginning where the one before ends. -/
def fieldValues : List Kind → List Byte → List Word
  | [], _ => []
  | k :: ks, p => k.valueOf (p.take k.width) :: fieldValues ks (p.drop k.width)

theorem fieldValues_length (ks : List Kind) (p : List Byte) : (fieldValues ks p).length = ks.length := by
  induction ks generalizing p with
  | nil => rfl
  | cons k ks ih => rw [fieldValues, List.length_cons, ih, List.length_cons]

theorem fieldValues_getElem? {ks : List Kind} {j : Nat} {k : Kind} (h : ks[j]? = some k) (p : List Byte) :
    (fieldValues ks p)[j]? = some (k.valueOf ((p.drop ((ks.take j).map Kind.width).sum).take k.width)) := by
  induction ks generalizing j p with
  | nil => cases h
  | cons k' ks ih =>
    cases j with
    | zero => cases h; rfl
    | succ j =>
      rw [fieldValues, List.getElem?_cons_succ, ih h, List.drop_drop, List.take_succ_cons, List.map_cons, List.sum_cons]

/-- The length of the MAC group of a payload (30_encoding.md R81). -/
def Grammar.macWidth (g : Grammar) : Nat := if g.hasMac then 16 else 0

/-- The field values of a payload of the grammar, after the MAC. -/
def Grammar.fieldsOf (g : Grammar) (p : List Byte) : List Word := fieldValues g.fields (p.drop g.macWidth)

theorem Grammar.fieldsOf_length (g : Grammar) (p : List Byte) : (g.fieldsOf p).length = g.fields.length :=
  fieldValues_length _ _

theorem Grammar.extracts_fieldsOf (g : Grammar) (p : List Byte) : g.Extracts p (g.fieldsOf p) := by
  refine ⟨g.fieldsOf_length p, fun j k hk => ?_⟩
  rw [Grammar.fieldsOf, fieldValues_getElem? hk, List.drop_drop]
  rfl

namespace Machine

/-- The engine's loop gives the values of the groups when every one of them is of hex digits and has a decode column. -/
theorem extract_of_digits {ks : List Kind} {p : List Byte} (hpb : Kind.pbaddr ∉ ks)
    (hlen : p.length = (ks.map Kind.width).sum) (hhex : allHex p = true) : extract ks p = some (fieldValues ks p) := by
  induction ks generalizing p with
  | nil => rfl
  | cons k ks ih =>
    rw [List.map_cons, List.sum_cons] at hlen
    have htake : (p.take k.width).length = k.width := by rw [List.length_take]; omega
    have hdrop : (p.drop k.width).length = (ks.map Kind.width).sum := by rw [List.length_drop]; omega
    have hk : decKind k (p.take k.width) = some (k.valueOf (p.take k.width)) :=
      decKind_of_digits (fun h => hpb (h ▸ List.mem_cons_self)) htake (allHex_iff.mp (allHex_take hhex _))
    simp only [extract, hk, ih (fun h => hpb (List.mem_cons_of_mem _ h)) hdrop (allHex_drop hhex _), fieldValues]

section Payload

variable {g : Grammar} {p : List Byte}

theorem macGroup_of_digits (hlen : p.length = g.explen) (hhex : allHex p = true) :
    macGroup g p = (g.macOf p, p.drop g.macWidth) := by
  rw [Grammar.explen_eq] at hlen
  unfold macGroup Grammar.macOf Grammar.macWidth
  split
  next hmac =>
    have h0 : p.take 16 ≠ [] := by
      refine List.ne_nil_of_length_pos ?_
      rw [List.length_take]
      simp only [hmac, if_true] at hlen
      omega
    rw [decWord_isSome h0 (allHex_take hhex 16), hexValue_eq_digitValue]
  next => rfl

theorem matchPayload_of_digits (hpb : Kind.pbaddr ∉ g.fields) (hlen : p.length = g.explen) (hhex : allHex p = true)
    (c : BitVec 16) : matchPayload g c p = .ok (g.macOf p, g.fieldsOf p) := by
  have hmac := macGroup_of_digits hlen hhex
  have hrest : (p.drop g.macWidth).length = (g.fields.map Kind.width).sum := by
    rw [List.length_drop, hlen, Grammar.explen_eq, Grammar.macWidth]
    omega
  refine matchPayload_eq_ok.mpr ⟨hlen, hhex, by rw [hmac], ?_⟩
  rw [hmac]
  exact extract_of_digits hpb hrest (allHex_drop hhex _)

theorem matchMessage_of_digits {n : Nat} (hpb : Kind.pbaddr ∉ g.fields) (hn : g.fields.length ≤ n)
    (hlen : p.length = g.explen) (hhex : allHex p = true) (c : BitVec 16) :
    matchMessage g c n p = .ok (g.macOf p, g.fieldsOf p) :=
  matchMessage_eq_ok.mpr ⟨matchPayload_of_digits hpb hlen hhex c, (g.fieldsOf_length p).symm ▸ hn⟩

theorem matchMessage_mismatch (h : p.length ≠ g.explen ∨ allHex p = false) (c : BitVec 16) (n : Nat) :
    matchMessage g c n p = .error (.raise (.payloadMismatch c g.pattern p)) := by
  rw [matchMessage, matchPayload_mismatch c h, error_bind]

end Payload

/-! ### Dispatch -/

section Dispatch

variable {r : Registry} {vt : VariantTable} {t : Tag} {g : Grammar} {c : BitVec 16}

theorem dispatchTag_of_tx (h : (vt.get t).dir = some .tx) (c : BitVec 16) :
    dispatchTag vt t c = .error (.raise (.unknownMessageType c)) := if_pos h

theorem dispatchTag_of_grammar_none (h : (vt.get t).dir ≠ some .tx) (hg : (vt.get t).grammar = none) (c : BitVec 16) :
    dispatchTag vt t c = .error (.refuse (.grammarNotSupplied t)) := by
  rw [dispatchTag, if_neg h, hg]
  rfl

theorem dispatchTag_of_both (hg : (vt.get t).grammar = some g) (hdir : g.dir = .both) (c : BitVec 16) :
    dispatchTag vt t c = .ok g := by
  refine dispatchTag_eq_ok.mpr ⟨?_, hg⟩
  rw [(VtRow.grammar_eq_some.mp hg).1, hdir]
  decide

theorem dir_of_dispatchTag (h : dispatchTag vt t c = .ok g) : g.dir = .both := by
  obtain ⟨hdir, hg⟩ := dispatchTag_eq_ok.mp h
  rw [(VtRow.grammar_eq_some.mp hg).1] at hdir
  cases hd : g.dir with
  | both => rfl
  | tx => exact absurd (congrArg some hd) hdir

theorem dispatch_of_lookup_none (h : r.lookup c = none) :
    dispatch r vt c = .error (.raise (.unknownMessageType c)) := by
  rw [dispatch, h]
  rfl

theorem dispatch_of_tag_error (h : r.lookup c = some t) {e : Stop} (he : dispatchTag vt t c = .error e) :
    dispatch r vt c = .error e := by
  simp only [dispatch, h, he, error_bind]

theorem dispatch_of_both (h : r.lookup c = some t) (hg : (vt.get t).grammar = some g) (hdir : g.dir = .both) :
    dispatch r vt c = .ok (t, g) :=
  dispatch_eq_ok.mpr ⟨h, dispatchTag_of_both hg hdir c⟩

theorem selectOnly_of_ne (h : c ≠ r.get t) : selectOnly r vt t c = .error (.refuse .otherVariant) := by
  rw [selectOnly, require_neg h, error_bind]

/-- Of a frame of its own type code, a variant's dispatch is that of the registry. -/
theorem selectOnly_self (hwf : r.wf = true) (vt : VariantTable) (t : Tag) :
    selectOnly r vt t (r.get t) = dispatch r vt (r.get t) := by
  rw [selectOnly, require_pos rfl, ok_bind, dispatch, (Registry.lookup_eq_some hwf).mpr rfl]

end Dispatch

/-! ### The checks of a frame, in their order -/

section Split

variable {select : BitVec 16 → Except Stop (Tag × Grammar)} {n : Nat} {x : List Byte}

theorem splitFrame_typeField_malformed (h : x.length < 4 ∨ decU (x.take 4) = none) :
    splitFrame select n x = .error (.raise (.malformedHex .typeCode)) := by
  by_cases h4 : 4 ≤ x.length
  · have hnone := h.resolve_left (Nat.not_lt.mpr h4)
    simp only [splitFrame, require_pos h4, ok_bind, decodeField_malformed _ hnone, error_bind]
  · simp only [splitFrame, require_neg h4, error_bind]

/-- Only the dispatch of the type code that the frame carries is asked. -/
theorem splitFrame_congr {select' : BitVec 16 → Except Stop (Tag × Grammar)}
    (h : ∀ c, decU (x.take 4) = some c → select (BitVec.ofNat 16 c) = select' (BitVec.ofNat 16 c)) :
    splitFrame select n x = splitFrame select' n x := by
  cases hc : decU (x.take 4) with
  | none => rw [splitFrame_typeField_malformed (.inr hc), splitFrame_typeField_malformed (.inr hc)]
  | some c => simp only [splitFrame, decodeField_of_decU _ hc, ok_bind, h c hc]

variable {c : Nat} (h4 : 4 ≤ x.length) (hc : decU (x.take 4) = some c)
include h4 hc

theorem splitFrame_select_error {e : Stop} (he : select (BitVec.ofNat 16 c) = .error e) :
    splitFrame select n x = .error e := by
  simp only [splitFrame, require_pos h4, ok_bind, decodeField_of_decU _ hc, he, error_bind]

variable {t : Tag} {g : Grammar} (hsel : select (BitVec.ofNat 16 c) = .ok (t, g))
include hsel

theorem splitFrame_seqField_malformed (h : x.length < 8 ∨ decU ((x.drop 4).take 4) = none) :
    splitFrame select n x = .error (.raise (.malformedHex .seq)) := by
  by_cases h8 : 8 ≤ x.length
  · have hnone := h.resolve_left (Nat.not_lt.mpr h8)
    simp only [splitFrame, require_pos h4, ok_bind, decodeField_of_decU _ hc, hsel, require_pos h8,
      decodeField_malformed _ hnone, error_bind]
  · simp only [splitFrame, require_pos h4, ok_bind, decodeField_of_decU _ hc, hsel, require_neg h8, error_bind]

variable {q : Nat} (hq : decU ((x.drop 4).take 4) = some q)
include hq

theorem splitFrame_short (h8 : 8 ≤ x.length) (h12 : x.length < 12) :
    splitFrame select n x = .error (.raise (.malformedHex .crc)) := by
  simp only [splitFrame, require_pos h4, ok_bind, decodeField_of_decU _ hc, hsel, require_pos h8,
    decodeField_of_decU _ hq, require_neg (Nat.not_le.mpr h12), error_bind]

theorem splitFrame_payload_error (h12 : 12 ≤ x.length) {e : Stop}
    (he : matchPayload g (BitVec.ofNat 16 c) ((x.drop 8).take (x.length - 12)) = .error e) :
    splitFrame select n x = .error e := by
  have h8 : 8 ≤ x.length := by omega
  simp only [splitFrame, require_pos h4, ok_bind, decodeField_of_decU _ hc, hsel, require_pos h8,
    decodeField_of_decU _ hq, require_pos h12, he, error_bind]

theorem splitFrame_crcField_malformed (h12 : 12 ≤ x.length) {m : Option Word} {fs : List Word}
    (hm : matchPayload g (BitVec.ofNat 16 c) ((x.drop 8).take (x.length - 12)) = .ok (m, fs)) (hn : fs.length ≤ n)
    (hr : decU (x.drop (x.length - 4)) = none) :
    splitFrame select n x = .error (.raise (.malformedHex .crc)) := by
  have h8 : 8 ≤ x.length := by omega
  simp only [splitFrame, require_pos h4, ok_bind, decodeField_of_decU _ hc, hsel, require_pos h8,
    decodeField_of_decU _ hq, require_pos h12, hm, require_pos hn, decodeField_malformed _ hr, error_bind]

end Split

end Machine
end Sys2Proof
end

section
/-! PROOFS. Parsing a frame and decoding a payload (43_framing.md R171, R172): the whole state after `FRM.PARSE`,
`MSG.DECODE` and the forms of variants, in every case of their operands. -/

namespace Sys2Proof.Machine

section Parse

variable {s : State} {x : List Byte} {select : BitVec 16 → Except Stop (Tag × Grammar)}

theorem parseFrame_of_input (hx : s.HoldsInput x) : parseFrame select s =
    finish (s.start .nothing) (splitFrame select s.f.length x) (fun m => verify m (s.start .nothing)) := by
  rw [parseFrame, hx.input, ok_bind]

theorem parseFrame_of_raise (hx : s.HoldsInput x) {e : CodecError}
    (h : splitFrame select s.f.length x = .error (.raise e)) : parseFrame select s = .next (s.blankFailed e) := by
  rw [parseFrame_of_input hx, h, finish_error, after_raise, State.start_nothing_fail]

theorem parseFrame_of_refuse (hx : s.HoldsInput x) {r : RefusalReason}
    (h : splitFrame select s.f.length x = .error (.refuse r)) : parseFrame select s = .next (s.blankRefused r) := by
  rw [parseFrame_of_input hx, h, finish_error, after_refuse, State.start_nothing_refused]

theorem parseFrame_corrupted (hx : s.HoldsInput x) {m : InboundFrame} (h : splitFrame select s.f.length x = .ok m)
    (hsum : m.sum ≠ crc16 m.body) :
    parseFrame select s = .next { s.blankFailed .checksumMismatch with crc := crc16 m.body } := by
  rw [parseFrame_of_input hx, h, finish_ok, verify, if_neg hsum, State.start_nothing]
  rfl

theorem parseFrame_verified (hx : s.HoldsInput x) {m : InboundFrame} (h : splitFrame select s.f.length x = .ok m)
    (hsum : m.sum = crc16 m.body) :
    parseFrame select s = .next { s.blank with
      crc := crc16 m.body, tag := some m.tag, code := some m.code, seq := some m.seq, mac := m.mac,
      f := m.fields.map some ++ List.replicate (s.f.length - m.fields.length) none } := by
  rw [parseFrame_of_input hx, h, finish_ok, verify, if_pos hsum, State.start_nothing_message]

/-- A parse that ends `PARSED` has split the frame, and its checksum is right. -/
theorem parseFrame_parsed (hx : s.HoldsInput x) {t : State} (h : parseFrame select s = .next t) (hst : t.st = .parsed) :
    ∃ m, splitFrame select s.f.length x = .ok m ∧ m.sum = crc16 m.body := by
  rw [parseFrame_of_input hx] at h
  obtain ⟨m, hm, rfl⟩ := finish_parsed h hst
  refine ⟨m, hm, ?_⟩
  by_contra hsum
  rw [verify, if_neg hsum] at hst
  cases hst

end Parse

/-- Settles O31: each clause is the check of `splitFrame` that its string fails first. -/
theorem parseReportsTheFirstError : Obligations.ParseReportsTheFirstError := by
  intro s x hwf hx
  refine ⟨fun h => parseFrame_of_raise hx (splitFrame_typeField_malformed h), fun c h4 hc =>
    ⟨fun hl => parseFrame_of_raise hx (splitFrame_select_error h4 hc (dispatch_of_lookup_none hl)), fun t hl =>
      ⟨fun hdir => ?_, fun hdir hg => ?_, fun g hg hdir => ?_⟩⟩⟩
  · exact parseFrame_of_raise hx
      (splitFrame_select_error h4 hc (dispatch_of_tag_error hl (dispatchTag_of_tx hdir _)))
  · exact parseFrame_of_refuse hx
      (splitFrame_select_error h4 hc (dispatch_of_tag_error hl (dispatchTag_of_grammar_none hdir hg _)))
  have hsel : dispatch s.reg s.vt (BitVec.ofNat 16 c) = .ok (t, g) := dispatch_of_both hl hg hdir
  refine ⟨fun h => parseFrame_of_raise hx (splitFrame_seqField_malformed h4 hc hsel h), fun q h8 hq =>
    ⟨fun h12 => parseFrame_of_raise hx (splitFrame_short h4 hc hsel hq h8 h12), ?_⟩⟩
  rintro p h12 rfl
  refine ⟨fun h => ?_, fun hlen hhex hr => ?_⟩
  · exact parseFrame_of_raise hx (splitFrame_payload_error h4 hc hsel hq h12 (matchPayload_mismatch _ h))
  · have hm := matchPayload_of_digits (VariantTable.pbaddr_not_mem hwf hg hdir) hlen hhex (BitVec.ofNat 16 c)
    refine parseFrame_of_raise hx (splitFrame_crcField_malformed h4 hc hsel hq h12 hm ?_ hr)
    rw [Grammar.fieldsOf_length]
    exact VariantTable.fields_length_le hwf hg

/-- Settles O32: the frame passes every check of `splitFrame`, and the two outcomes are those of `verify`. -/
theorem parseVerifiesTheChecksum : Obligations.ParseVerifiesTheChecksum := by
  rintro s x p c q r t g hwf hx h12 hc hl hg hdir hq rfl hlen hhex hr
  have hm := matchPayload_of_digits (VariantTable.pbaddr_not_mem hwf hg hdir) hlen hhex (BitVec.ofNat 16 c)
  have hn : (g.fieldsOf ((x.drop 8).take (x.length - 12))).length ≤ s.f.length := by
    rw [Grammar.fieldsOf_length]
    exact VariantTable.fields_length_le hwf hg
  have hrlt : r < 2 ^ 16 := by
    have htrail : (x.drop (x.length - 4)).length = 4 := by rw [List.length_drop]; omega
    have hlt := decU_lt hr
    rwa [htrail] at hlt
  have hsplit := (splitFrame_eq_ok (select := dispatch s.reg s.vt) (n := s.f.length) (m := InboundFrame.mk t _ _ _ _ _ _)).mpr
    ⟨h12, c, q, r, g, hc, dispatch_of_both hl hg hdir, hq, hm, hn, hr, rfl, rfl, rfl, rfl⟩
  refine ⟨fun hne => parseFrame_corrupted hx hsplit fun heq => hne ?_, fun heq =>
    ⟨_, g.extracts_fieldsOf _, parseFrame_verified hx hsplit ?_⟩⟩
  · exact ((eq_ofNat_iff hrlt).mp heq.symm).symm
  · exact ((eq_ofNat_iff hrlt).mpr heq.symm).symm

/-- Settles O33: the two dispatches agree on the variant's own code, and no other code is taken. -/
theorem variantParseIsFrmParse : Obligations.VariantParseIsFrmParse := by
  intro s t x hwf hx
  rw [exec_instr]
  refine ⟨fun h => ?_, fun c h4 hc hne => ?_⟩
  · have hsplit : splitFrame (selectOnly s.reg s.vt t) s.f.length x = splitFrame (dispatch s.reg s.vt) s.f.length x := by
      rcases h with h | h | h
      · rw [splitFrame_typeField_malformed (.inl h), splitFrame_typeField_malformed (.inl h)]
      · rw [splitFrame_typeField_malformed (.inr h), splitFrame_typeField_malformed (.inr h)]
      · refine splitFrame_congr fun c hc => ?_
        obtain rfl : c = (s.reg.get t).toNat := Option.some.inj (hc.symm.trans h)
        rw [ofNat_toNat_code]
        exact selectOnly_self hwf s.vt t
    calc parseFrame (selectOnly s.reg s.vt t) s
        = finish (s.start .nothing) (splitFrame (selectOnly s.reg s.vt t) s.f.length x)
            (fun m => verify m (s.start .nothing)) := parseFrame_of_input hx
      _ = parseFrame (dispatch s.reg s.vt) s := by rw [hsplit, parseFrame_of_input hx]
  · exact parseFrame_of_refuse hx (splitFrame_select_error h4 hc (selectOnly_of_ne hne))

/-! ### Decoding a payload -/

section Decode

variable {s : State} {x : List Byte}

theorem exec_msgDecode_short (hx : s.HoldsInput x) (h4 : x.length < 4) :
    exec .msgDecode s = .next { s.blankRefused .operandLength with seq := s.seq } := by
  have hilen : ¬ 4 ≤ s.ilen := by rw [hx.1]; omega
  rw [exec, execMsgDecode, require_neg hilen, error_bind, finish_error, after_refuse, State.start_ofSeq_refused]

variable (hx : s.HoldsInput x) (h4 : 4 ≤ x.length)
include hx h4

theorem exec_msgDecode_malformed (hc : decU (x.take 4) = none) :
    exec .msgDecode s = .next { s.blankFailed (.malformedHex .typeCode) with seq := s.seq } := by
  have hilen : 4 ≤ s.ilen := hx.1 ▸ h4
  rw [exec, execMsgDecode, require_pos hilen, ok_bind, hx.input, ok_bind, decodeField_malformed _ hc, error_bind,
    finish_error, after_raise, State.start_ofSeq_fail]

variable {c : Nat} (hc : decU (x.take 4) = some c)
include hc

theorem exec_msgDecode_of_dispatch_error {e : Stop} (he : dispatch s.reg s.vt (BitVec.ofNat 16 c) = .error e) :
    exec .msgDecode s = .next (e.after (s.start .ofSeq)) := by
  have hilen : 4 ≤ s.ilen := hx.1 ▸ h4
  simp only [exec, execMsgDecode, require_pos hilen, ok_bind, hx.input, decodeField_of_decU _ hc, he, error_bind,
    finish_error]

variable {t : Tag} {g : Grammar} (hd : dispatch s.reg s.vt (BitVec.ofNat 16 c) = .ok (t, g))
include hd

theorem exec_msgDecode_of_match_error {e : Stop}
    (he : matchMessage g (BitVec.ofNat 16 c) s.f.length (x.drop 4) = .error e) :
    exec .msgDecode s = .next (e.after (s.start .ofSeq)) := by
  have hilen : 4 ≤ s.ilen := hx.1 ▸ h4
  simp only [exec, execMsgDecode, require_pos hilen, ok_bind, hx.input, decodeField_of_decU _ hc, hd, he, error_bind,
    finish_error]

theorem exec_msgDecode_of_match {m : Option Word} {fs : List Word}
    (hm : matchMessage g (BitVec.ofNat 16 c) s.f.length (x.drop 4) = .ok (m, fs)) :
    exec .msgDecode s = .next { s.blank with
      tag := some t, code := some (BitVec.ofNat 16 c), seq := s.seq, mac := m,
      f := fs.map some ++ List.replicate (s.f.length - fs.length) none } := by
  have hilen : 4 ≤ s.ilen := hx.1 ▸ h4
  simp only [exec, execMsgDecode, require_pos hilen, ok_bind, hx.input, decodeField_of_decU _ hc, hd, hm, pure_eq_ok,
    finish_ok, State.start_ofSeq_message]

end Decode

/-- Settles O34: the checks of `MSG.DECODE` in their order. -/
theorem msgDecodeExtractsTheFields : Obligations.MsgDecodeExtractsTheFields := by
  refine ⟨rfl, fun s x hwf hx => ⟨exec_msgDecode_short hx, exec_msgDecode_malformed hx, fun c h4 hc =>
    ⟨fun hl => ?_, fun t hl => ⟨fun hdir => ?_, fun hdir hg => ?_, fun g hg hdir => ⟨fun h => ?_, fun hlen hhex => ?_⟩⟩⟩⟩⟩
  · rw [exec_msgDecode_of_dispatch_error hx h4 hc (dispatch_of_lookup_none hl), after_raise, State.start_ofSeq_fail]
  · rw [exec_msgDecode_of_dispatch_error hx h4 hc (dispatch_of_tag_error hl (dispatchTag_of_tx hdir _)), after_raise,
      State.start_ofSeq_fail]
  · rw [exec_msgDecode_of_dispatch_error hx h4 hc (dispatch_of_tag_error hl (dispatchTag_of_grammar_none hdir hg _)),
      after_refuse, State.start_ofSeq_refused]
  · rw [exec_msgDecode_of_match_error hx h4 hc (dispatch_of_both hl hg hdir) (matchMessage_mismatch h _ _), after_raise,
      State.start_ofSeq_fail]
  · exact ⟨_, g.extracts_fieldsOf _, exec_msgDecode_of_match hx h4 hc (dispatch_of_both hl hg hdir)
      (matchMessage_of_digits (VariantTable.pbaddr_not_mem hwf hg hdir) (VariantTable.fields_length_le hwf hg) hlen hhex _)⟩

section DecodeAs

variable {s : State} {p : List Byte} {t : Tag} (hx : s.HoldsInput p)
include hx

theorem decodeAs_of_dispatch_error {e : Stop} (he : dispatchTag s.vt t (s.reg.get t) = .error e) :
    decodeAs t s = .next (e.after (s.start .ofSeq)) := by
  rw [decodeAs, hx.input, ok_bind, he, error_bind, finish_error]

variable {g : Grammar} (hd : dispatchTag s.vt t (s.reg.get t) = .ok g)
include hd

theorem decodeAs_of_match_error {e : Stop} (he : matchMessage g (s.reg.get t) s.f.length p = .error e) :
    decodeAs t s = .next (e.after (s.start .ofSeq)) := by
  rw [decodeAs, hx.input, ok_bind, hd, ok_bind, he, finish_error]

theorem decodeAs_of_match {m : Option Word} {fs : List Word}
    (hm : matchMessage g (s.reg.get t) s.f.length p = .ok (m, fs)) :
    decodeAs t s = .next { s.blank with
      tag := some t, code := some (s.reg.get t), seq := s.seq, mac := m,
      f := fs.map some ++ List.replicate (s.f.length - fs.length) none } := by
  simp only [decodeAs, hx.input, ok_bind, hd, hm, finish_ok, State.start_ofSeq_message]

end DecodeAs

/-- Settles O35: the checks of the decode form, which are those of `MSG.DECODE` after the lookup. -/
theorem variantDecodeExtractsTheFields : Obligations.VariantDecodeExtractsTheFields := by
  intro s t p hwf hx
  rw [exec_instr]
  refine ⟨fun hdir => ?_, fun hdir hg => ?_, fun g hg hdir => ⟨fun h => ?_, fun hlen hhex => ?_⟩⟩
  · exact (decodeAs_of_dispatch_error hx (dispatchTag_of_tx hdir _)).trans
      (congrArg _ (State.start_ofSeq_fail _ s))
  · exact (decodeAs_of_dispatch_error hx (dispatchTag_of_grammar_none hdir hg _)).trans
      (congrArg _ (State.start_ofSeq_refused _ s))
  · exact (decodeAs_of_match_error hx (dispatchTag_of_both hg hdir _) (matchMessage_mismatch h _ _)).trans
      (congrArg _ (State.start_ofSeq_fail _ s))
  · exact ⟨_, g.extracts_fieldsOf _, decodeAs_of_match hx (dispatchTag_of_both hg hdir _)
      (matchMessage_of_digits (VariantTable.pbaddr_not_mem hwf hg hdir) (VariantTable.fields_length_le hwf hg) hlen hhex _)⟩

end Sys2Proof.Machine
end

section
/-! PROOFS. A parse as a decode of the pieces and a checksum (43_framing.md section 3). -/

namespace Sys2Proof.Machine

/-- A `MSG.DECODE` that ends `PARSED` has dispatched the type code and matched the payload. -/
theorem exec_msgDecode_parsed {s t : State} {x : List Byte} (hx : s.HoldsInput x) (h : exec .msgDecode s = .next t)
    (hst : t.st = .parsed) :
    4 ≤ x.length ∧ ∃ c u g m fs, decU (x.take 4) = some c ∧ dispatch s.reg s.vt (BitVec.ofNat 16 c) = .ok (u, g) ∧
      matchMessage g (BitVec.ofNat 16 c) s.f.length (x.drop 4) = .ok (m, fs) := by
  obtain ⟨a, ha, -⟩ := finish_parsed (show finish _ _ _ = _ from h) hst
  obtain ⟨_, h4, ha⟩ := bind_eq_ok.mp ha
  obtain ⟨y, hy, ha⟩ := bind_eq_ok.mp ha
  obtain rfl : x = y := Except.ok.inj (hx.input.symm.trans hy)
  obtain ⟨c, hc, ha⟩ := bind_eq_ok.mp ha
  obtain ⟨⟨u, g⟩, hd, ha⟩ := bind_eq_ok.mp ha
  obtain ⟨⟨m, fs⟩, hm, -⟩ := bind_eq_ok.mp ha
  exact ⟨hx.1 ▸ require_eq_ok.mp h4, c, u, g, m, fs, decodeField_eq_ok.mp hc, hd, hm⟩

theorem ofNat_eq_iff_of_decU {x : List Byte} {r : Nat} {b : BitVec 16} (hlen : x.length = 4) (h : decU x = some r) :
    BitVec.ofNat 16 r = b ↔ r = b.toNat := by
  have hlt : r < 16 ^ 4 := hlen ▸ decU_lt h
  rw [eq_comm, eq_ofNat_iff (v := r) hlt, eq_comm]

/-- Settles O36: both commands dispatch the same code and match the same payload; the parse adds the sequence field and
the checksum. -/
theorem parseIsDecodeOfThePiecesAndChecksum : Obligations.ParseIsDecodeOfThePiecesAndChecksum := by
  intro s s' x tag code seq mac f hx h12 hy hreg hvt hf hseq
  have hlen4 : (x.take 4).length = 4 := by rw [List.length_take]; omega
  have htrail : (x.drop (x.length - 4)).length = 4 := by rw [List.length_drop]; omega
  have htake : (x.take 4 ++ (x.drop 8).take (x.length - 12)).take 4 = x.take 4 := List.take_left' hlen4
  have hdrop : (x.take 4 ++ (x.drop 8).take (x.length - 12)).drop 4 = (x.drop 8).take (x.length - 12) :=
    List.drop_left' hlen4
  constructor
  · rintro ⟨t, ht, hst, rfl, rfl, rfl, rfl, rfl⟩
    obtain ⟨m, hm, hsum⟩ := parseFrame_parsed hx ht hst
    cases (parseFrame_verified hx hm hsum).symm.trans ht
    obtain ⟨-, c, q, r, g, hc, hd, hq, hmatch, hn, hr, hcode, hqseq, hrsum, hbody⟩ := splitFrame_eq_ok.mp hm
    have hdec := exec_msgDecode_of_match hy (by rw [List.length_append, hlen4]; omega) (htake.symm ▸ hc)
      (by rw [hreg, hvt]; exact hd) (hdrop.symm ▸ matchMessage_eq_ok.mpr ⟨hmatch, hf ▸ hn⟩)
    refine ⟨⟨_, hdec, rfl, rfl, congrArg some hcode.symm, ?_, rfl, by rw [hf]⟩, by rw [hq]; rfl, ?_⟩
    · rw [hseq, hq, hqseq]
      rfl
    · rw [hr, ← hbody, (ofNat_eq_iff_of_decU htrail hr).mp (hrsum.symm.trans hsum)]
  · rintro ⟨⟨t, ht, hst, rfl, rfl, rfl, rfl, rfl⟩, hqsome, hr⟩
    obtain ⟨h4, c, u, g, m, fs, hc, hd, hm⟩ := exec_msgDecode_parsed hy ht hst
    cases (exec_msgDecode_of_match hy h4 hc hd hm).symm.trans ht
    rw [htake] at hc
    rw [hreg, hvt] at hd
    rw [hdrop, hf] at hm
    obtain ⟨hmatch, hn⟩ := matchMessage_eq_ok.mp hm
    obtain ⟨q, hq⟩ := Option.isSome_iff_exists.mp hqsome
    have hsplit := (splitFrame_eq_ok (select := dispatch s.reg s.vt) (n := s.f.length)
      (m := InboundFrame.mk u _ _ m fs _ _)).mpr ⟨h12, c, q, _, g, hc, hd, hq, hmatch, hn, hr, rfl, rfl, rfl, rfl⟩
    refine ⟨_, parseFrame_verified hx hsplit ((ofNat_eq_iff_of_decU htrail hr).mpr rfl), rfl, rfl, rfl, ?_, rfl, by rw [hf]⟩
    rw [hseq, hq]
    rfl

end Sys2Proof.Machine
end

section
/-! PROOFS. Round trips (43_framing.md section 4; 40_hexcodec.md R110). A field value that fits is read back from its
digits, and a canonical group is written back from its value; both lift to payloads and to frames. -/

namespace Sys2Proof

@[simp] theorem Kind.text_length (k : Kind) (v : Word) : (k.text v).length = k.width := digitString_length _ _

theorem Kind.allHex_text (k : Kind) (v : Word) : allHex (k.text v) = true := by
  rw [Kind.text, ← hexDigits_eq_digitString, allHex_hexDigits]

theorem Kind.wire_eq_toNat {k : Kind} (h : k ≠ .pbaddr) (v : Word) : k.wire v = v.toNat := by
  cases k with
  | pbaddr => exact absurd rfl h
  | _ => rfl

/-- A field value that fits is what its digits are decoded to. -/
theorem Kind.valueOf_text {k : Kind} {v : Word} (hp : k ≠ .pbaddr) (h : k.fits v) : k.valueOf (k.text v) = v := by
  by_cases hb : k = .bool
  · subst hb
    rcases Kind.fits_bool_iff.mp h with rfl | rfl <;> decide
  · have hlt := (Kind.fits_iff hb).mp h
    rw [Kind.valueOf_eq hb hp, Kind.text, ← hexValue_eq_digitValue, ← hexDigits_eq_digitString, hexValue_hexDigits,
      Nat.mod_eq_of_lt hlt, Kind.wire_eq_toNat hp, BitVec.ofNat_toNat, BitVec.setWidth_eq]

/-- A group of upper-case digits is written as the digits of its value; of a `BOOL`, the two literal strings are. -/
theorem Kind.text_valueOf {k : Kind} {s : List Byte} (hp : k ≠ .pbaddr) (hlen : s.length = k.width)
    (hhex : allHex s = true) (hup : upper s = s) (hbool : k = .bool → s = [0x30, 0x30] ∨ s = [0x30, 0x31]) :
    k.fits (k.valueOf s) ∧ k.text (k.valueOf s) = s := by
  by_cases hb : k = .bool
  · subst hb
    rcases hbool rfl with rfl | rfl <;> exact ⟨Kind.fits_bool_iff.mpr (by decide), by decide⟩
  · have hlt : digitValue s < 2 ^ 64 := digitValue_lt_of_width hlen (allHex_iff.mp hhex)
    have hwire : k.wire (k.valueOf s) = hexValue s := by
      rw [Kind.wire_eq_toNat hp, Kind.valueOf_eq hb hp, BitVec.toNat_ofNat, Nat.mod_eq_of_lt hlt, hexValue_eq_digitValue]
    refine ⟨(Kind.fits_iff hb).mpr ?_, ?_⟩
    · rw [hwire, ← hlen]
      exact hexValue_lt hhex
    · rw [Kind.text, hwire, ← hexDigits_eq_digitString, ← hlen, hexDigits_hexValue hhex, hup]

theorem upper_take (s : List Byte) (n : Nat) : upper (s.take n) = (upper s).take n := List.map_take

theorem upper_drop (s : List Byte) (n : Nat) : upper (s.drop n) = (upper s).drop n := List.map_drop

/-! ### Payloads -/

theorem payloadText_of_allFit {ks : List Kind} {vs : List Word} (h : allFit ks vs) :
    (payloadText ks vs).length = (ks.map Kind.width).sum ∧ allHex (payloadText ks vs) = true := by
  induction forall₂_of_allFit h with
  | nil => exact ⟨rfl, rfl⟩
  | cons _ _ ih =>
    obtain ⟨hlen, hhex⟩ := ih h.2
    simp [payloadText_cons, hlen, hhex, Kind.allHex_text]

theorem fieldValues_payloadText {ks : List Kind} {vs : List Word} (hpb : Kind.pbaddr ∉ ks) (h : allFit ks vs) :
    fieldValues ks (payloadText ks vs) = vs := by
  induction forall₂_of_allFit h with
  | nil => rfl
  | @cons k v ks vs hv _ ih =>
    have hk : k ≠ .pbaddr := fun h => hpb (h ▸ List.mem_cons_self)
    rw [fieldValues, payloadText_cons, List.take_left' (k.text_length v), List.drop_left' (k.text_length v),
      Kind.valueOf_text hk hv, ih (fun h => hpb (List.mem_cons_of_mem _ h)) h.2]

/-- Every `BOOL` group of a payload that holds no MAC is one of the two literal strings (30_encoding.md R77). -/
def BoolsCanonical (ks : List Kind) (p : List Byte) : Prop :=
  ∀ j, ks[j]? = some Kind.bool →
    (p.drop ((ks.take j).map Kind.width).sum).take 2 = [0x30, 0x30] ∨
      (p.drop ((ks.take j).map Kind.width).sum).take 2 = [0x30, 0x31]

theorem BoolsCanonical.tail {k : Kind} {ks : List Kind} {p : List Byte} (h : BoolsCanonical (k :: ks) p) :
    BoolsCanonical ks (p.drop k.width) := fun j hj => by
  simpa [List.drop_drop] using h (j + 1) hj

/-- A canonical payload is what its values are rendered as. -/
theorem payloadText_fieldValues {ks : List Kind} {p : List Byte} (hpb : Kind.pbaddr ∉ ks)
    (hlen : p.length = (ks.map Kind.width).sum) (hhex : allHex p = true) (hup : upper p = p)
    (hbool : BoolsCanonical ks p) :
    allFit ks (fieldValues ks p) ∧ payloadText ks (fieldValues ks p) = p := by
  induction ks generalizing p with
  | nil => exact ⟨trivial, (List.length_eq_zero_iff.mp hlen).symm⟩
  | cons k ks ih =>
    rw [List.map_cons, List.sum_cons] at hlen
    have htake : (p.take k.width).length = k.width := by rw [List.length_take]; omega
    have hdrop : (p.drop k.width).length = (ks.map Kind.width).sum := by rw [List.length_drop]; omega
    obtain ⟨hfit, htext⟩ := Kind.text_valueOf (fun h => hpb (h ▸ List.mem_cons_self)) htake (allHex_take hhex _)
      (by rw [upper_take, hup]) (by rintro rfl; exact hbool 0 rfl)
    obtain ⟨hfits, htexts⟩ := ih (fun h => hpb (List.mem_cons_of_mem _ h)) hdrop (allHex_drop hhex _)
      (by rw [upper_drop, hup]) hbool.tail
    exact ⟨⟨hfit, hfits⟩, by rw [fieldValues, payloadText_cons, htext, htexts, List.take_append_drop]⟩

namespace Machine

@[simp] theorem macText_length (m : Option Word) : (macText m).length = if m.isSome then 16 else 0 := by
  cases m <;> simp [macText]

theorem allHex_macText (m : Option Word) : allHex (macText m) = true := by
  cases m with
  | none => rfl
  | some v => exact allHex_hexDigits 16 _

section Message

variable {g : Grammar} {m : Option Word} {vs : List Word}

theorem macText_length_eq_macWidth (hmac : m.isSome = g.hasMac) : (macText m).length = g.macWidth := by
  rw [macText_length, hmac, Grammar.macWidth]

theorem macOf_append_macText (hmac : m.isSome = g.hasMac) (p : List Byte) : g.macOf (macText m ++ p) = m := by
  rw [Grammar.macOf, ← hmac]
  cases m with
  | none => rfl
  | some v =>
    have htake : (macText (some v) ++ p).take 16 = hex64 v := List.take_left' (hex64_length v)
    have hv : v.toNat < 16 ^ 16 := v.isLt
    rw [htake, ← hexValue_eq_digitValue, hex64, hexValue_hexDigits, Nat.mod_eq_of_lt hv, BitVec.ofNat_toNat,
      BitVec.setWidth_eq]
    rfl

/-- The payload of a message matches the grammar and gives the message back. -/
theorem matchPayload_of_message (hpb : Kind.pbaddr ∉ g.fields) (hmac : m.isSome = g.hasMac) (hfit : allFit g.fields vs)
    (c : BitVec 16) : matchPayload g c (macText m ++ payloadText g.fields vs) = .ok (m, vs) := by
  obtain ⟨hlen, hhex⟩ := payloadText_of_allFit hfit
  have hwidth := macText_length_eq_macWidth hmac
  have hfields : g.fieldsOf (macText m ++ payloadText g.fields vs) = vs := by
    rw [Grammar.fieldsOf, List.drop_left' hwidth, fieldValues_payloadText hpb hfit]
  rw [matchPayload_of_digits hpb, macOf_append_macText hmac, hfields]
  · rw [List.length_append, hwidth, hlen, Grammar.explen_eq, Grammar.macWidth]
  · rw [allHex_append, allHex_macText, hhex]
    rfl

theorem length_eq_of_allFit {ks : List Kind} (h : allFit ks vs) : vs.length = ks.length :=
  (forall₂_of_allFit h).length_eq.symm

end Message

/-- Settles O38: the type field is read as the code, and the payload matches as the message's. -/
theorem decodeOfRenderedPayloadIsTheMessage : Obligations.DecodeOfRenderedPayloadIsTheMessage := by
  intro s t g mac vs hwf hvt hg hdir hmac hfit hx
  have htext : (mac.map (fun m => digitString 16 m.toNat)).getD [] = macText mac := by
    rw [macText, funext hex64_eq_digitString]
  rw [htext, ← hex16_eq_digitString, List.append_assoc] at hx
  have hlen4 := hex16_length (s.reg.get t)
  have hcode := ofNat_toNat_code (s.reg.get t)
  have hc : decU ((hex16 (s.reg.get t) ++ (macText mac ++ payloadText g.fields vs)).take 4) = some (s.reg.get t).toNat := by
    rw [List.take_left' hlen4, decU_hex16]
  have hm : matchMessage g (s.reg.get t) s.f.length
      ((hex16 (s.reg.get t) ++ (macText mac ++ payloadText g.fields vs)).drop 4) = .ok (mac, vs) := by
    rw [List.drop_left' hlen4]
    refine matchMessage_eq_ok.mpr
      ⟨matchPayload_of_message (VariantTable.pbaddr_not_mem hvt hg hdir) hmac hfit _, ?_⟩
    rw [length_eq_of_allFit hfit]
    exact VariantTable.fields_length_le hvt hg
  have hl : s.reg.lookup (s.reg.get t) = some t := (Registry.lookup_eq_some hwf).mpr rfl
  have hexec := exec_msgDecode_of_match hx (by rw [List.length_append, hlen4]; omega) hc
    (hcode.symm ▸ dispatch_of_both hl hg hdir) (hcode.symm ▸ hm)
  rw [hexec, hcode]

/-! ### Frames -/

/-- The pieces in which a parse reads a frame (30_encoding.md R72). -/
theorem frame_pieces {a b p z : List Byte} (ha : a.length = 4) (hb : b.length = 4) (hz : z.length = 4) :
    (a ++ b ++ p ++ z).length = p.length + 12 ∧ (a ++ b ++ p ++ z).take 4 = a ∧ ((a ++ b ++ p ++ z).drop 4).take 4 = b ∧
      ((a ++ b ++ p ++ z).drop 8).take ((a ++ b ++ p ++ z).length - 12) = p ∧
      (a ++ b ++ p ++ z).drop ((a ++ b ++ p ++ z).length - 4) = z ∧
      (a ++ b ++ p ++ z).take ((a ++ b ++ p ++ z).length - 4) = a ++ b ++ p := by
  have hlen : (a ++ b ++ p ++ z).length = p.length + 12 := by simp only [List.length_append, ha, hb, hz]; omega
  have hbody : (a ++ b ++ p ++ z).length - 4 = (a ++ b ++ p).length := by simp only [List.length_append, hz]; omega
  have hab : (a ++ b).length = 8 := by rw [List.length_append, ha, hb]
  refine ⟨hlen, ?_, ?_, ?_, ?_, ?_⟩
  · rw [List.append_assoc, List.append_assoc, List.take_left' ha]
  · rw [List.append_assoc, List.append_assoc, List.drop_left' ha, List.take_left' hb]
  · rw [hlen, List.append_assoc, List.drop_left' hab, List.take_left' (by omega)]
  · rw [hbody, List.drop_left]
  · rw [hbody, List.take_left]

theorem State.output_of_ofString {s : State} {x : List Byte} (hst : s.st = .parsed) (hob : s.ob = Memory.ofString x)
    (holen : s.olen = x.length) : s.output = some x := by
  rw [State.output, if_pos hst, hob, holen, Memory.readString_ofString]

/-- The body of the frame of a message, a sequence number rendered (30_encoding.md R71). -/
theorem outboundBody_of_message {code q : BitVec 16} {g : Grammar} {m : Option Word} (hmac : m.isSome = g.hasMac)
    (p : List Byte) :
    outboundBody code true (some q) (if g.hasMac then m else none) p = hex16 code ++ hex16 q ++ (macText m ++ p) := by
  have hm : (if g.hasMac then m else none) = m := by
    rw [← hmac]
    cases m <;> rfl
  have hbody := outboundBody_eq { seqRx := true, seqTx := true, dir := none, hasMac := none, fields := none } code (some q) m p
  rw [hm, hbody, seqField, if_pos rfl, List.append_assoc]

/-- The output of a `FRM.ENCODE` that ends `PARSED`, of a message with fields that fit. -/
theorem output_of_frmEncode {s e : State} {t : Tag} {g : Grammar} {vs : List Word} {rest : List (Option Word)}
    (ht : s.tag = some t) (hg : (s.vt.get t).grammar = some g) (hmac : g.hasMac = true → s.mac.isSome = true)
    (hf : s.f = vs.map some ++ rest) (hfit : allFit g.fields vs) (h : exec .frmEncode s = .next e) (hst : e.st = .parsed) :
    e.output = some (withCrc (outboundBody (s.reg.get t) (s.vt.get t).seqTx s.seq (if g.hasMac then s.mac else none)
      (payloadText g.fields vs))) := by
  have hp : render 0 g.fields s.f = .ok (payloadText g.fields vs) := hf ▸ render_of_allFit hfit 0 rest
  generalize hbody : outboundBody (s.reg.get t) (s.vt.get t).seqTx s.seq (if g.hasMac then s.mac else none)
    (payloadText g.fields vs) = body
  have hframe := frameBody_of_render_ok hg hmac hp hbody.symm
  rw [exec_frmEncode_eq_assemble ht] at h
  split at hframe
  · rw [assemble_of_body hframe] at h
    cases h
    exact State.output_of_ofString rfl rfl (withCrc_length _).symm
  · rw [assemble_of_refuse hframe] at h
    cases h
    cases hst

/-- Settles O37: the frame falls into the pieces it was made of, each of which is read back. -/
theorem parseOfEncodedFrameIsTheMessage : Obligations.ParseOfEncodedFrameIsTheMessage := by
  intro s s' t g q vs x e hwf hvt ht hg hdir hseqTx hseq hmac hfit hf henc hst hout hx hreg hvt' hf'
  have hx_eq := Option.some.inj (hout.symm.trans (output_of_frmEncode ht hg (fun h => hmac.trans h) hf hfit henc hst))
  rw [hseqTx, hseq, outboundBody_of_message hmac] at hx_eq
  obtain ⟨hlen, htake, hmid, hpay, htrail, hbody⟩ := frame_pieces (p := macText s.mac ++ payloadText g.fields vs)
    (hex16_length (s.reg.get t)) (hex16_length q) (hex16_length (crc16 (hex16 (s.reg.get t) ++ hex16 q ++
      (macText s.mac ++ payloadText g.fields vs))))
  rw [withCrc, crcHex] at hx_eq
  rw [← hx_eq] at hlen htake hmid hpay htrail hbody
  have h12 : 12 ≤ x.length := by omega
  have hl : s.reg.lookup (s.reg.get t) = some t := (Registry.lookup_eq_some hwf).mpr rfl
  have hd : dispatch s'.reg s'.vt (s.reg.get t) = .ok (t, g) := by
    rw [hreg, hvt']
    exact dispatch_of_both hl hg hdir
  have hmatch := matchPayload_of_message (VariantTable.pbaddr_not_mem hvt hg hdir) hmac hfit (s.reg.get t)
  have hn : vs.length ≤ s'.f.length := by
    rw [hf', length_eq_of_allFit hfit]
    exact VariantTable.fields_length_le hvt hg
  have hsplit := (splitFrame_eq_ok (select := dispatch s'.reg s'.vt) (n := s'.f.length)
    (m := InboundFrame.mk t (s.reg.get t) q s.mac vs (x.take (x.length - 4)) (crc16 (x.take (x.length - 4))))).mpr
    ⟨h12, (s.reg.get t).toNat, q.toNat, (crc16 (x.take (x.length - 4))).toNat, g, by rw [htake, decU_hex16],
      by rw [ofNat_toNat_code]; exact hd, by rw [hmid, decU_hex16], by rw [ofNat_toNat_code, hpay]; exact hmatch, hn,
      by rw [htrail, hbody, decU_hex16], (ofNat_toNat_code _).symm, (ofNat_toNat_code _).symm,
      (ofNat_toNat_code _).symm, rfl⟩
  exact ⟨_, parseFrame_verified hx hsplit rfl, rfl, rfl, rfl, hseq.symm, rfl, by rw [hf']; exact hf.symm⟩

end Machine
end Sys2Proof
end

section
/-! PROOFS. The converse round trip (43_framing.md section 4): a canonical frame is what its message is encoded as. -/

namespace Sys2Proof.Machine

theorem macOf_isSome (g : Grammar) (p : List Byte) : (g.macOf p).isSome = g.hasMac := by
  unfold Grammar.macOf
  split <;> simp_all

/-- The MAC group of an upper-case payload is what its value is written as. -/
theorem macText_macOf {g : Grammar} {p : List Byte} (hlen : g.macWidth ≤ p.length) (hhex : allHex p = true)
    (hup : upper p = p) : macText (g.macOf p) = p.take g.macWidth := by
  unfold Grammar.macOf Grammar.macWidth
  split
  next hmac =>
    have htake : (p.take 16).length = 16 := by
      rw [Grammar.macWidth, if_pos hmac] at hlen
      rw [List.length_take]
      omega
    have hhex16 : allHex (p.take 16) = true := allHex_take hhex 16
    have hlt : hexValue (p.take 16) < 2 ^ 64 := by simpa [htake] using hexValue_lt hhex16
    have hdigits := hexDigits_hexValue hhex16
    rw [htake, upper_take, hup] at hdigits
    rw [← hexValue_eq_digitValue, macText, Option.map_some, Option.getD_some, hex64, BitVec.toNat_ofNat,
      Nat.mod_eq_of_lt hlt, hdigits]
  next => rfl

/-- A group that lies within the first `n` characters is the same read from those alone. -/
theorem take_drop_take {x : List Byte} {n i k : Nat} (h : i + k ≤ n) : ((x.take n).drop i).take k = (x.drop i).take k := by
  rw [List.drop_take, List.take_take, Nat.min_eq_left (by omega)]

theorem sum_take_add_le_sum {l : List Nat} {j w : Nat} (h : l[j]? = some w) : (l.take j).sum + w ≤ l.sum := by
  calc (l.take j).sum + w = (l.take (j + 1)).sum := by rw [List.take_add_one, h, List.sum_append]; simp
    _ ≤ (l.take (j + 1)).sum + (l.drop (j + 1)).sum := Nat.le_add_right _ _
    _ = l.sum := List.sum_take_add_sum_drop l (j + 1)

/-- The `BOOL` groups of the payload of a frame, read from the payload after its MAC. -/
theorem boolsCanonical_of_groups {g : Grammar} {y : List Byte} {n : Nat} (hn : g.explen = n)
    (h : ∀ j, g.fields[j]? = some Kind.bool →
      g.group j .bool y = [0x30, 0x30] ∨ g.group j .bool y = [0x30, 0x31]) :
    BoolsCanonical g.fields ((y.take n).drop g.macWidth) := by
  intro j hj
  have hsum := sum_take_add_le_sum (l := g.fields.map Kind.width) (j := j) (w := 2) (by rw [List.getElem?_map, hj]; rfl)
  rw [← List.map_take] at hsum
  rw [Grammar.explen_eq] at hn
  have hgroup : (((y.take n).drop g.macWidth).drop ((g.fields.take j).map Kind.width).sum).take 2 = g.group j .bool y := by
    rw [List.drop_drop, take_drop_take (by rw [Grammar.macWidth]; omega)]
    rfl
  rw [hgroup]
  exact h j hj

theorem take_eq_pieces {x : List Byte} (h : 12 ≤ x.length) :
    x.take (x.length - 4) = x.take 4 ++ (x.drop 4).take 4 ++ (x.drop 8).take (x.length - 12) := by
  rw [show x.length - 4 = 4 + 4 + (x.length - 12) by omega, List.take_add, List.take_add]

/-- A canonical payload is what the MAC and the fields it is matched to are written as. -/
theorem message_of_canonical_payload {g : Grammar} {c : BitVec 16} {P : List Byte} {m : Option Word} {fs : List Word}
    (hpb : Kind.pbaddr ∉ g.fields) (hmatch : matchPayload g c P = .ok (m, fs)) (hup : upper P = P)
    (hbool : BoolsCanonical g.fields (P.drop g.macWidth)) :
    m.isSome = g.hasMac ∧ allFit g.fields fs ∧ macText m ++ payloadText g.fields fs = P := by
  obtain ⟨hlen, hhex, -, -⟩ := matchPayload_eq_ok.mp hmatch
  have hmessage := (matchPayload_of_digits hpb hlen hhex c).symm.trans hmatch
  simp only [Except.ok.injEq, Prod.mk.injEq] at hmessage
  obtain ⟨rfl, rfl⟩ := hmessage
  have hexplen : P.length = g.macWidth + (g.fields.map Kind.width).sum := hlen.trans g.explen_eq
  have hrest : (P.drop g.macWidth).length = (g.fields.map Kind.width).sum := by rw [List.length_drop]; omega
  obtain ⟨hfit, htext⟩ := payloadText_fieldValues hpb hrest (allHex_drop hhex _) (by rw [upper_drop, hup]) hbool
  refine ⟨macOf_isSome g P, hfit, ?_⟩
  rw [macText_macOf (by omega) hhex hup, Grammar.fieldsOf, htext, List.take_append_drop]

/-- A field of four upper-case digits is what its value is written as. -/
theorem hex16_of_group {y : List Byte} {v : Nat} {b : BitVec 16} (hlen : y.length = 4) (hup : upper y = y)
    (hv : decU y = some v) (hb : b = BitVec.ofNat 16 v) : hex16 b = y := by
  rw [hb, hex16_ofNat_of_decU hlen hv, hup]

/-- A canonical frame whose checksum is right is the outbound frame of the message it is split into. -/
theorem outboundFrame_of_split {s : State} {n : Nat} {x : List Byte} {m : InboundFrame} {g : Grammar}
    (hvt : VariantTable.wf n s.vt = true) (hm : splitFrame (dispatch s.reg s.vt) n x = .ok m) (hsum : m.sum = crc16 m.body)
    (hg : (s.vt.get m.tag).grammar = some g) (hseqTx : (s.vt.get m.tag).seqTx = true) (hup : upper x = x)
    (hbool : ∀ j, g.fields[j]? = some Kind.bool →
      g.group j .bool (x.drop 8) = [0x30, 0x30] ∨ g.group j .bool (x.drop 8) = [0x30, 0x31]) :
    m.mac.isSome = g.hasMac ∧ allFit g.fields m.fields ∧
      m.body = outboundBody (s.reg.get m.tag) (s.vt.get m.tag).seqTx (some m.seq) (if g.hasMac then m.mac else none)
        (payloadText g.fields m.fields) ∧ withCrc m.body = x := by
  obtain ⟨h12, c, q, r, g', hc, hsel, hq, hmatch, -, hr, -, hseq, hrsum, hbody⟩ := splitFrame_eq_ok.mp hm
  obtain ⟨hl, htag⟩ := dispatch_eq_ok.mp hsel
  obtain rfl : g = g' := Option.some.inj (hg.symm.trans (dispatchTag_eq_ok.mp htag).2)
  have hplen : g.explen = x.length - 12 := by
    rw [← (matchPayload_eq_ok.mp hmatch).1, List.length_take, List.length_drop]
    omega
  obtain ⟨hmac, hfit, htext⟩ := message_of_canonical_payload
    (VariantTable.pbaddr_not_mem hvt hg (dir_of_dispatchTag htag)) hmatch (by rw [upper_take, upper_drop, hup])
    (boolsCanonical_of_groups hplen hbool)
  have htypeText : hex16 (s.reg.get m.tag) = x.take 4 :=
    hex16_of_group (by rw [List.length_take]; omega) (by rw [upper_take, hup]) hc (Registry.get_of_lookup hl)
  have hseqText : hex16 m.seq = (x.drop 4).take 4 :=
    hex16_of_group (by rw [List.length_take, List.length_drop]; omega) (by rw [upper_take, upper_drop, hup]) hq hseq
  have hcrcText : hex16 (crc16 m.body) = x.drop (x.length - 4) :=
    hex16_of_group (by rw [List.length_drop]; omega) (by rw [upper_drop, hup]) hr (hsum.symm.trans hrsum)
  refine ⟨hmac, hfit, ?_, ?_⟩
  · rw [hseqTx, outboundBody_of_message hmac, htypeText, hseqText, htext, hbody, take_eq_pieces h12]
  · rw [withCrc, crcHex, hcrcText, hbody, List.take_append_drop]

/-- Settles O39: the message that is parsed is written as the frame (`outboundFrame_of_split`), and `FRM.ENCODE` writes it. -/
theorem encodeOfParsedFrameIsTheFrame : Obligations.EncodeOfParsedFrameIsTheFrame := by
  intro s p t g x _ hvt hx h hst htag hg hseqTx hup hbool
  obtain ⟨m, hm, hsum⟩ := parseFrame_parsed hx h hst
  have hp := Host.Outcome.next.inj ((parseFrame_verified hx hm hsum).symm.trans h)
  obtain ⟨hptag, hpseq, hpmac, hpf, hpreg, hpvt⟩ : p.tag = some m.tag ∧ p.seq = some m.seq ∧ p.mac = m.mac ∧
      p.f = m.fields.map some ++ List.replicate (s.f.length - m.fields.length) none ∧ p.reg = s.reg ∧ p.vt = s.vt := by
    rw [← hp]
    exact ⟨rfl, rfl, rfl, rfl, rfl, rfl⟩
  obtain rfl : m.tag = t := Option.some.inj (hptag.symm.trans htag)
  obtain ⟨hmac, hfit, hbody, hframe⟩ := outboundFrame_of_split hvt hm hsum hg hseqTx hup hbool
  rw [← hpvt] at hg
  rw [← hpreg, ← hpvt, ← hpseq, ← hpmac] at hbody
  rw [← hpmac] at hmac
  have hlen : m.body.length + 4 = x.length := by rw [← withCrc_length, hframe]
  have hexec := (encodeWritesTheFrame p m.tag g m.fields _ m.body hg hpf hfit (fun h => hmac.trans h) hbody
    (hlen ▸ hx.2.1)).1 hptag
  refine ⟨_, hexec, rfl, State.output_of_ofString rfl (congrArg Memory.ofString ?_) hlen⟩
  rw [outboundFrame_eq_withCrc, hframe]

end Sys2Proof.Machine
end

section
/-! PROOFS. What a command leaves, by its family (43_framing.md R173; 60_exceptions.md R266, R275). A command that does not
end `PARSED` leaves the state it started in with an error or a refusal recorded (`exec_stopped`); one that ends `PARSED`
leaves the results of its family (`exec_parsed`). -/

namespace Sys2Proof

/-- The commands and the forms of variants by what they read and write. -/
inductive Family where
  | hexEncode
  | hexDecode
  | crc
  | fromcode
  | tocode
  | encode
  | parse
  | decode

/-- The form of a variant is of the family of its command of the `FRAME` unit (log 10). -/
def MsgOp.family : MsgOp → Family
  | .encode => .encode
  | .parse => .parse
  | .decode => .decode

def Instr.family (i : Instr) : Family :=
  match i.variant with
  | some (_, op) => op.family
  | none =>
    match i with
    | .hexEncu | .hexEncf32 | .hexEncds | .hexEncdm | .hexEncmac => .hexEncode
    | .hexDecu | .hexDecf32 | .hexDecds | .hexDecdm | .hexDecmac => .hexDecode
    | .regFromcode => .fromcode
    | .regTocode => .tocode
    | .frmEncode => .encode
    | .frmParse => .parse
    | .msgDecode => .decode
    | _ => .crc

/-- The registers that are operands of a family and keep what was given (log 3). -/
def Family.kept : Family → Machine.Kept
  | .hexEncode => .ofVal
  | .tocode => .ofTag
  | .encode => .ofMessage
  | .decode => .ofSeq
  | .hexDecode | .crc | .fromcode | .parse => .nothing

/-- The families that compute a checksum (10_state.md R23). -/
def Family.Computes (f : Family) : Prop := f = .crc ∨ f = .encode ∨ f = .parse

/-- The state whose registers a command takes: the encode form of a variant names the variant first (log 10). -/
def Instr.given (i : Instr) (s : Machine.State) : Machine.State :=
  match i.variant with
  | some (t, .encode) => s.asVariant t
  | _ => s

/-- The state a command has started in, before its checks. -/
def Instr.started (i : Instr) (s : Machine.State) : Machine.State := (i.given s).start i.family.kept

@[simp] theorem family_instr (t : Tag) (op : MsgOp) : (t.instr op).family = op.family := by
  cases t <;> rfl

namespace Machine

theorem started_encode (t : Tag) (s : State) :
    (t.instr .encode).started s = (s.asVariant t).start .ofMessage := by
  rw [Instr.started, family_instr, Instr.given, Instr.variant_instr]
  rfl

theorem started_parse (t : Tag) (s : State) : (t.instr .parse).started s = s.start .nothing := by
  rw [Instr.started, family_instr, Instr.given, Instr.variant_instr]
  rfl

theorem started_decode (t : Tag) (s : State) : (t.instr .decode).started s = s.start .ofSeq := by
  rw [Instr.started, family_instr, Instr.given, Instr.variant_instr]
  rfl

/-! ### A command that ends in an error or a refusal -/

theorem finish_stopped {α : Type} {s0 t : State} {x : Except Stop α} {k : α → State} (h : finish s0 x k = .next t)
    (hk : ∀ a, (k a).st = .parsed) (hst : t.st ≠ .parsed) : ∃ e : Stop, t = e.after s0 := by
  rcases finish_eq_next.mp h with ⟨a, -, rfl⟩ | ⟨e, -, rfl⟩
  · exact absurd (hk a) hst
  · exact ⟨e, rfl⟩

/-- How a command of a family that does not end `PARSED` ends, from the state it has started in: it stops, or the checksum
of the frame it parses differs. -/
def Stopped (f : Family) (s0 t : State) : Prop :=
  (∃ e : Stop, t = e.after s0) ∨ f = .parse ∧ ∃ body, t = (s0.checksum body).fail .checksumMismatch

theorem parseFrame_stopped {select : BitVec 16 → Except Stop (Tag × Grammar)} {s t : State}
    (h : parseFrame select s = .next t) (hst : t.st ≠ .parsed) : Stopped .parse (s.start .nothing) t := by
  rcases finish_eq_next.mp h with ⟨m, -, rfl⟩ | ⟨e, -, rfl⟩
  · by_cases hsum : m.sum = crc16 m.body
    · rw [verify, if_pos hsum] at hst
      exact absurd rfl hst
    · exact .inr ⟨rfl, m.body, by rw [verify, if_neg hsum]⟩
  · exact .inl ⟨e, rfl⟩

theorem exec_stopped {i : Instr} {s t : State} (h : exec i s = .next t) (hst : t.st ≠ .parsed) :
    Stopped i.family (i.started s) t := by
  rcases i.command_or_variant with hi | ⟨u, op, rfl⟩
  · cases i
    case hexEncu | hexDecu | hexEncf32 | hexDecf32 | hexEncds | hexDecds | hexEncdm | hexDecdm | hexEncmac | hexDecmac
        | crcCompute | regTocode | frmEncode | msgDecode => exact .inl (finish_stopped h (fun _ => rfl) hst)
    case frmParse => exact parseFrame_stopped h hst
    case regFromcode =>
      rcases finish_eq_next.mp (show finish _ _ _ = _ from h) with ⟨c, -, rfl⟩ | ⟨e, -, rfl⟩
      · unfold identify at hst ⊢
        split at hst
        · exact .inl ⟨.raise _, rfl⟩
        · exact absurd rfl hst
      · exact .inl ⟨e, rfl⟩
    all_goals cases hi
  · rw [exec_instr] at h
    rw [family_instr]
    cases op with
    | encode =>
      rw [started_encode]
      exact .inl (finish_stopped h (fun _ => rfl) hst)
    | parse =>
      rw [started_parse]
      exact parseFrame_stopped h hst
    | decode =>
      rw [started_decode]
      exact .inl (finish_stopped h (fun _ => rfl) hst)

theorem keepIf_cases {α : Type} (b : Bool) (x : Option α) : keepIf b x = none ∨ keepIf b x = x := by
  cases b
  · exact .inl rfl
  · exact .inr rfl

theorem State.fv_of_replicate {s : State} {n : Nat} (h : s.f = List.replicate n none) (j : Nat) : s.fv j = false := by
  rw [State.fv, State.fieldReg, h, join_getElem?_replicate_none]
  rfl

theorem State.fv_start {k : Kept} (h : k.message = false) (s : State) (j : Nat) : (s.start k).fv j = false :=
  State.fv_of_replicate (by rw [State.start_f, h, map_keepIf_false]) j

theorem State.start_noMessage (s : State) : (s.start .nothing).NoMessage :=
  ⟨rfl, rfl, rfl, rfl, State.fv_start rfl s⟩

/-- What a command that ends without a result leaves: no output, the inputs and the tables as they were, and in the
operand and message registers no value or what was given, the encode form of a variant naming the variant (log 10). -/
structure NoResult (i : Instr) (s t : State) : Prop where
  ob : t.ob = []
  olen : t.olen = 0
  ib : t.ib = s.ib
  ilen : t.ilen = s.ilen
  w : t.w = s.w
  reg : t.reg = s.reg
  vt : t.vt = s.vt
  queue : t.queue = s.queue
  val : t.val = none ∨ t.val = s.val
  seq : t.seq = none ∨ t.seq = s.seq
  mac : t.mac = none ∨ t.mac = s.mac
  fields : t.f = s.f ∨ ∀ j, t.fv j = false
  identity : (t.tag = none ∨ t.tag = s.tag) ∧ (t.code = none ∨ t.code = s.code) ∨
    ∃ u : Tag, i = u.instr .encode ∧ t.tag = some u ∧ t.code = some (s.reg.get u)

theorem NoResult.start (i : Instr) (k : Kept) (s : State) : NoResult i s (s.start k) where
  ob := rfl
  olen := rfl
  ib := rfl
  ilen := rfl
  w := rfl
  reg := rfl
  vt := rfl
  queue := rfl
  val := keepIf_cases _ _
  seq := keepIf_cases _ _
  mac := keepIf_cases _ _
  fields := by
    cases hk : k.message with
    | false => exact .inr (State.fv_start hk s)
    | true => exact .inl (by rw [State.start_f, hk, map_keepIf_true])
  identity := .inl ⟨keepIf_cases _ _, keepIf_cases _ _⟩

theorem NoResult.started (i : Instr) (s : State) : NoResult i s (i.started s) := by
  rcases i.command_or_variant with hi | ⟨u, op, rfl⟩
  · rw [Instr.started, Instr.given, hi]
    exact .start i _ s
  · cases op with
    | encode =>
      rw [started_encode]
      exact { NoResult.start (u.instr .encode) .ofMessage (s.asVariant u) with identity := .inr ⟨u, rfl, rfl, rfl⟩ }
    | parse =>
      rw [started_parse]
      exact .start _ _ s
    | decode =>
      rw [started_decode]
      exact .start _ _ s

@[simp] theorem started_crc (i : Instr) (s : State) : (i.started s).crc = s.crc := by
  unfold Instr.started Instr.given
  split <;> rfl

/-- Settles O50: a refused command has stopped with a refusal, which writes nothing but its record. -/
theorem refusalWritesNothing : Obligations.RefusalWritesNothing := by
  intro i s t h hst
  rcases exec_stopped h (by rw [hst]; decide) with ⟨e, rfl⟩ | ⟨-, body, rfl⟩
  · cases e with
    | raise e => cases hst
    | refuse r =>
      have hno := NoResult.started i s
      exact ⟨rfl, rfl, hno.ob, hno.olen, started_crc i s, hno.ib, hno.ilen, hno.w, hno.reg, hno.vt, hno.queue, hno.val,
        hno.seq, hno.mac, hno.fields, hno.identity⟩
  · cases hst

/-- A command that fails has taken an error in the state it started in, with the checksum in `CRC` when this differs
(log 4). -/
theorem exec_failed {i : Instr} {s t : State} (h : exec i s = .next t) (hst : t.st = .failed) :
    (∃ e, t = (i.started s).fail e) ∨
      ∃ body, t = ((i.started s).checksum body).fail .checksumMismatch := by
  rcases exec_stopped h (by rw [hst]; decide) with ⟨e, rfl⟩ | ⟨-, body, rfl⟩
  · cases e with
    | raise e => exact .inl ⟨e, rfl⟩
    | refuse r => cases hst
  · exact .inr ⟨body, rfl⟩

/-- Settles O51: the failed command leaves the registers it started with (`exec_failed`), those of its family. -/
theorem failureLeavesNoResult : Obligations.FailureLeavesNoResult := by
  intro i s t h hst
  have hno := NoResult.started i s
  have hparse : i = .frmParse ∨ i = .regFromcode → (i.started s).NoMessage := by
    rintro (rfl | rfl) <;> exact s.start_noMessage
  have hdecode : i = .msgDecode → (i.started s).tag = none ∧ (i.started s).code = none ∧
      (i.started s).macv = false ∧ ∀ j, (i.started s).fv j = false := by
    rintro rfl
    exact ⟨rfl, rfl, rfl, State.fv_start rfl s⟩
  have hval : i = .hexDecu ∨ i = .hexDecf32 ∨ i = .hexDecds ∨ i = .hexDecdm ∨ i = .hexDecmac →
      (i.started s).val = none := by
    rintro (rfl | rfl | rfl | rfl | rfl) <;> rfl
  rcases exec_failed h hst with ⟨e, rfl⟩ | ⟨body, rfl⟩
  · exact ⟨rfl, fun _ => started_crc i s, hno.ob, hno.olen, hno.ib, hno.ilen, hno.w, hno.reg, hno.vt, hno.queue,
      hno.val, hno.seq, hno.mac, hno.fields, hno.identity, hparse, hdecode, hval⟩
  · exact ⟨rfl, fun hne => absurd rfl hne, hno.ob, hno.olen, hno.ib, hno.ilen, hno.w, hno.reg, hno.vt, hno.queue,
      hno.val, hno.seq, hno.mac, hno.fields, hno.identity, hparse, hdecode, hval⟩

/-! ### A command that ends in a result -/

/-- The fields of a message are as many as those of its variant's grammar, and it has a MAC exactly where that does. -/
structure OfGrammar (s : State) (t : Tag) (m : Option Word) (fs : List Word) (g : Grammar) : Prop where
  grammar : (s.vt.get t).grammar = some g
  mac : m.isSome = g.hasMac
  fields : fs.length = g.fields.length

/-- How a command of a family that ends `PARSED` ends, from the state it has started in. -/
def Completed (f : Family) (s0 t : State) : Prop :=
  match f with
  | .hexDecode => ∃ v, t = s0.value v
  | .hexEncode => ∃ x, 1 ≤ x.length ∧ t = s0.out x
  | .crc => ∃ x, t = (s0.checksum x).out (crcHex x)
  | .fromcode => ∃ u, t = { s0 with tag := some u, code := some (s0.reg.get u), st := .parsed }
  | .tocode => ∃ u, s0.tag = some u ∧ t = { s0.out (hex16 (s0.reg.get u)) with code := some (s0.reg.get u) }
  | .encode => ∃ body, 4 ≤ body.length ∧ t = (s0.checksum body).out (withCrc body)
  | .parse => ∃ (m : InboundFrame) (g : Grammar), OfGrammar s0 m.tag m.mac m.fields g ∧
      t = (s0.checksum m.body).message m.tag (s0.reg.get m.tag) (some m.seq) m.mac m.fields
  | .decode => ∃ (u : Tag) (m : Option Word) (fs : List Word) (g : Grammar), OfGrammar s0 u m fs g ∧
      t = s0.message u (s0.reg.get u) s0.seq m fs

theorem ofGrammar_of_match {s : State} {t : Tag} {g : Grammar} {c c' : BitVec 16} {p : List Byte} {m : Option Word}
    {fs : List Word} (k : Kept) (hd : dispatchTag s.vt t c' = .ok g) (hm : matchPayload g c p = .ok (m, fs)) :
    OfGrammar (s.start k) t m fs g := by
  obtain ⟨hlen, hhex, rfl, hfs⟩ := matchPayload_eq_ok.mp hm
  refine ⟨(dispatchTag_eq_ok.mp hd).2, ?_, extract_length hfs⟩
  rw [macGroup_of_digits hlen hhex, macOf_isSome]

theorem parseFrame_completed {select : BitVec 16 → Except Stop (Tag × Grammar)} {s t : State}
    (hsel : ∀ c u g, select c = .ok (u, g) → c = s.reg.get u ∧ dispatchTag s.vt u c = .ok g)
    (h : parseFrame select s = .next t) (hst : t.st = .parsed) : Completed .parse (s.start .nothing) t := by
  obtain ⟨m, hm, rfl⟩ := finish_parsed h hst
  obtain ⟨x, -, hx⟩ := bind_eq_ok.mp hm
  obtain ⟨-, c, q, r, g, -, hd, -, hmatch, -, -, hc, -⟩ := splitFrame_eq_ok.mp hx
  obtain ⟨hcode, hd⟩ := hsel _ _ _ hd
  by_cases hsum : m.sum = crc16 m.body
  · rw [verify, if_pos hsum, hc.trans hcode]
    exact ⟨m, g, ofGrammar_of_match .nothing hd hmatch, rfl⟩
  · rw [verify, if_neg hsum] at hst
    cases hst

theorem four_le_length_of_frameBody {t : Tag} {s : State} {body : List Byte} (h : frameBody t s = .ok body) :
    4 ≤ body.length := by
  cases hg : (s.vt.get t).grammar with
  | none => rw [frameBody_of_grammar_none hg] at h; cases h
  | some g => rw [frameBody_length hg h]; omega

theorem hexEncode_completed {n : Nat} {pick : Word → Nat} {s t : State} (hn : 1 ≤ n)
    (h : hexEncode n pick s = .next t) (hst : t.st = .parsed) : Completed .hexEncode (s.start .ofVal) t := by
  obtain ⟨x, hx, rfl⟩ := finish_parsed h hst
  obtain ⟨v, -, hx⟩ := bind_eq_ok.mp hx
  refine ⟨x, ?_, rfl⟩
  rw [(encodeField_eq_ok.mp hx).2, hexDigits_length]
  exact hn

theorem hexDecode_completed {n : Nat} {s t : State} (h : hexDecode n s = .next t) (hst : t.st = .parsed) :
    Completed .hexDecode (s.start .nothing) t := by
  obtain ⟨v, -, rfl⟩ := finish_parsed h hst
  exact ⟨v, rfl⟩

theorem execVariant_completed {u : Tag} {op : MsgOp} {s t : State} (h : execVariant u op s = .next t)
    (hst : t.st = .parsed) : Completed op.family ((u.instr op).started s) t := by
  cases op with
  | encode =>
    obtain ⟨body, hb, rfl⟩ := finish_parsed (show finish _ _ _ = _ from h) hst
    rw [started_encode]
    exact ⟨body, four_le_length_of_frameBody hb, rfl⟩
  | parse =>
    rw [started_parse]
    refine parseFrame_completed (fun c v g hsel => ?_) h hst
    obtain ⟨hc, rfl, hd⟩ := selectOnly_eq_ok.mp hsel
    exact ⟨hc, hd⟩
  | decode =>
    obtain ⟨⟨m, fs⟩, hm, rfl⟩ := finish_parsed (show finish _ _ _ = _ from h) hst
    obtain ⟨p, -, hm⟩ := bind_eq_ok.mp hm
    obtain ⟨g, hd, hm⟩ := bind_eq_ok.mp hm
    rw [started_decode]
    exact ⟨u, m, fs, g, ofGrammar_of_match .ofSeq hd (matchMessage_eq_ok.mp hm).1, rfl⟩

theorem execMsgDecode_completed {s t : State} (h : execMsgDecode s = .next t) (hst : t.st = .parsed) :
    Completed .decode (s.start .ofSeq) t := by
  obtain ⟨⟨u, c, m, fs⟩, hm, rfl⟩ := finish_parsed h hst
  obtain ⟨_, -, hm⟩ := bind_eq_ok.mp hm
  obtain ⟨x, -, hm⟩ := bind_eq_ok.mp hm
  obtain ⟨d, -, hm⟩ := bind_eq_ok.mp hm
  obtain ⟨⟨u', g⟩, hd, hm⟩ := bind_eq_ok.mp hm
  obtain ⟨⟨m', fs'⟩, hf, hm⟩ := bind_eq_ok.mp hm
  cases hm
  obtain ⟨hl, hd⟩ := dispatch_eq_ok.mp hd
  have hgrammar := ofGrammar_of_match .ofSeq hd (matchMessage_eq_ok.mp hf).1
  rw [← Registry.get_of_lookup hl]
  exact ⟨u, m, fs, g, hgrammar, rfl⟩

/-- Every command that ends `PARSED` ends with the results of its family. -/
theorem exec_parsed {i : Instr} {s t : State} (h : exec i s = .next t) (hst : t.st = .parsed) :
    Completed i.family (i.started s) t := by
  rcases i.command_or_variant with hi | ⟨u, op, rfl⟩
  · cases i
    case hexEncu =>
      obtain ⟨x, hx, rfl⟩ := finish_parsed (show finish _ _ _ = _ from h) hst
      obtain ⟨v, -, hx⟩ := bind_eq_ok.mp hx
      obtain ⟨w, -, hx⟩ := bind_eq_ok.mp hx
      obtain ⟨_, hw, hx⟩ := bind_eq_ok.mp hx
      refine ⟨x, ?_, rfl⟩
      rw [(encodeField_eq_ok.mp hx).2, hexDigits_length]
      exact (require_eq_ok.mp hw).1
    case hexDecu =>
      obtain ⟨v, -, rfl⟩ := finish_parsed (show finish _ _ _ = _ from h) hst
      exact ⟨v, rfl⟩
    case hexEncf32 | hexEncds | hexEncdm | hexEncmac => exact hexEncode_completed (by decide) h hst
    case hexDecf32 | hexDecds | hexDecdm | hexDecmac => exact hexDecode_completed h hst
    case crcCompute =>
      obtain ⟨x, -, rfl⟩ := finish_parsed (show finish _ _ _ = _ from h) hst
      exact ⟨x, rfl⟩
    case regFromcode =>
      obtain ⟨c, -, rfl⟩ := finish_parsed (show finish _ _ _ = _ from h) hst
      unfold identify at hst ⊢
      split at hst
      · cases hst
      next u hu => exact ⟨u, by rw [← Registry.get_of_lookup hu]; rfl⟩
    case regTocode =>
      obtain ⟨u, hu, rfl⟩ := finish_parsed (show finish _ _ _ = _ from h) hst
      exact ⟨u, needValue_eq_ok.mp hu, rfl⟩
    case frmEncode =>
      obtain ⟨body, hb, rfl⟩ := finish_parsed (show finish _ _ _ = _ from h) hst
      obtain ⟨u, -, hb⟩ := bind_eq_ok.mp hb
      exact ⟨body, four_le_length_of_frameBody hb, rfl⟩
    case frmParse =>
      refine parseFrame_completed (fun c u g hsel => ?_) h hst
      obtain ⟨hl, hd⟩ := dispatch_eq_ok.mp hsel
      exact ⟨(Registry.get_of_lookup hl).symm, hd⟩
    case msgDecode => exact execMsgDecode_completed h hst
    all_goals cases hi
  · rw [exec_instr] at h
    rw [family_instr]
    exact execVariant_completed h hst

/-- No command but an encoding one names a variant before it starts. -/
theorem started_of_family {i : Instr} {f : Family} (hi : i.family = f) (hf : f ≠ .encode) (s : State) :
    i.started s = s.start f.kept := by
  subst hi
  rcases i.command_or_variant with hi | ⟨u, op, rfl⟩
  · rw [Instr.started, Instr.given, hi]
  · rw [family_instr] at hf ⊢
    cases op with
    | encode => exact absurd rfl hf
    | parse => exact started_parse u s
    | decode => exact started_decode u s

theorem exec_parsed_of_family {i : Instr} {f : Family} {s t : State} (hi : i.family = f) (hf : f ≠ .encode)
    (h : exec i s = .next t) (hst : t.st = .parsed) : Completed f (s.start f.kept) t := by
  have hres := exec_parsed h hst
  rwa [hi, started_of_family hi hf] at hres

/-! ### The checksum register -/

theorem Stopped.crc {f : Family} {s0 t : State} (h : Stopped f s0 t) (hf : ¬ f.Computes) : t.crc = s0.crc := by
  rcases h with ⟨e, rfl⟩ | ⟨hparse, -⟩
  · cases e <;> rfl
  · exact absurd (.inr (.inr hparse)) hf

theorem Completed.crc {f : Family} {s0 t : State} (h : Completed f s0 t) (hf : ¬ f.Computes) : t.crc = s0.crc := by
  cases f with
  | hexDecode => obtain ⟨v, rfl⟩ := h; rfl
  | hexEncode => obtain ⟨x, -, rfl⟩ := h; rfl
  | fromcode => obtain ⟨u, rfl⟩ := h; rfl
  | tocode => obtain ⟨u, -, rfl⟩ := h; rfl
  | decode => obtain ⟨u, m, fs, g, -, rfl⟩ := h; rfl
  | crc => exact absurd (.inl rfl) hf
  | encode => exact absurd (.inr (.inl rfl)) hf
  | parse => exact absurd (.inr (.inr rfl)) hf

theorem exec_crc {i : Instr} {s t : State} (h : exec i s = .next t) (hi : ¬ i.family.Computes) : t.crc = s.crc := by
  by_cases hst : t.st = .parsed
  · exact ((exec_parsed h hst).crc hi).trans (started_crc i s)
  · exact ((exec_stopped h hst).crc hi).trans (started_crc i s)

/-- The instructions that compute a checksum. -/
theorem computes_family {i : Instr} (h : i.family.Computes) :
    i = .crcCompute ∨ i = .frmEncode ∨ i = .frmParse ∨ ∃ u : Tag, i = u.instr .encode ∨ i = u.instr .parse := by
  rcases i.command_or_variant with hi | ⟨u, op, rfl⟩
  · cases i
    case crcCompute => exact .inl rfl
    case frmEncode => exact .inr (.inl rfl)
    case frmParse => exact .inr (.inr (.inl rfl))
    case hexEncu | hexDecu | hexEncf32 | hexDecf32 | hexEncds | hexDecds | hexEncdm | hexDecdm | hexEncmac | hexDecmac
        | regFromcode | regTocode | msgDecode => rcases h with h | h | h <;> cases h
    all_goals cases hi
  · rw [family_instr] at h
    cases op with
    | encode => exact .inr (.inr (.inr ⟨u, .inl rfl⟩))
    | parse => exact .inr (.inr (.inr ⟨u, .inr rfl⟩))
    | decode => rcases h with h | h | h <;> cases h

/-- Settles O52: no end of a command writes the inputs or the tables, and only the families that compute a checksum write
`CRC`. -/
theorem everyCommandKeepsItsFrame : Obligations.EveryCommandKeepsItsFrame := by
  intro i s t h
  obtain ⟨hib, hilen, hw, hqueue⟩ := (exec_ends h).inputs
  obtain ⟨hreg, hvt, -⟩ := State.tables_eq.mp (exec_ends h).tables
  refine ⟨hib, fun a => by rw [hib], hilen, hw, hreg, hvt, hqueue, fun ⟨hcrc, henc, hparse, hvar⟩ => exec_crc h fun hc => ?_⟩
  rcases computes_family hc with hi | hi | hi | ⟨u, hi | hi⟩
  · exact hcrc hi
  · exact henc hi
  · exact hparse hi
  · exact (hvar u).1 hi
  · exact (hvar u).2 hi

/-! ### What holds a value after a result -/

theorem State.fv_message (t : Tag) (c : BitVec 16) (q : Option (BitVec 16)) (m : Option Word) (fs : List Word) (s : State)
    (j : Nat) : (s.message t c q m fs).fv j = decide (j < fs.length) := by
  rw [State.fv, State.fieldReg, State.message_f, join_getElem?_append_replicate_none, List.getElem?_map]
  by_cases hj : j < fs.length <;> simp [hj]

/-- The message registers hold a message of a variant with a grammar: its tag and code, a MAC where it addresses one, and
its fields and no more (10_state.md R26, R27). -/
def HoldsMessage (s t : State) : Prop :=
  ∃ (u : Tag) (g : Grammar), t.tag = some u ∧ t.code = some (s.reg.get u) ∧ (s.vt.get u).grammar = some g ∧
    t.macv = g.hasMac ∧ ∀ j, t.fv j = decide (j < g.fields.length)

theorem holdsMessage_message {s s0 : State} {u : Tag} {q : Option (BitVec 16)} {m : Option Word} {fs : List Word}
    {g : Grammar} (hg : OfGrammar s u m fs g) : HoldsMessage s (s0.message u (s.reg.get u) q m fs) :=
  ⟨u, g, rfl, rfl, hg.grammar, hg.mac, fun j => by rw [State.fv_message, hg.fields]⟩

theorem parse_completed {s t : State} (h : Completed .parse (s.start .nothing) t) :
    t.seqv = true ∧ t.val = none ∧ t.ob = [] ∧ t.olen = 0 ∧ HoldsMessage s t := by
  obtain ⟨m, g, hg, rfl⟩ := h
  exact ⟨rfl, rfl, rfl, rfl, holdsMessage_message (s := s) ⟨hg.grammar, hg.mac, hg.fields⟩⟩

theorem decode_completed {s t : State} (h : Completed .decode (s.start .ofSeq) t) :
    t.seq = s.seq ∧ t.val = none ∧ t.ob = [] ∧ t.olen = 0 ∧ HoldsMessage s t := by
  obtain ⟨u, m, fs, g, hg, rfl⟩ := h
  exact ⟨rfl, rfl, rfl, rfl, holdsMessage_message (s := s) ⟨hg.grammar, hg.mac, hg.fields⟩⟩

/-- An encoding command keeps the message registers it starts with. -/
theorem encode_completed {s t : State} (h : Completed .encode (s.start .ofMessage) t) :
    t.tag = s.tag ∧ t.code = s.code ∧ t.seq = s.seq ∧ t.mac = s.mac ∧ t.f = s.f ∧ t.val = none ∧ 8 ≤ t.olen := by
  obtain ⟨body, hbody, rfl⟩ := h
  refine ⟨rfl, rfl, rfl, rfl, map_keepIf_true s.f, rfl, ?_⟩
  rw [State.out_olen, withCrc_length]
  omega

/-- Settles O53: each clause is what the commands of its family end with (`Completed`). -/
theorem onlyResultsHoldValues : Obligations.OnlyResultsHoldValues := by
  intro i s t h hst
  have hfam : ∀ {f : Family}, i.family = f → f ≠ .encode → Completed f (s.start f.kept) t := fun hi hf =>
    exec_parsed_of_family hi hf h hst
  have hparse : (i = .frmParse ∨ ∃ u : Tag, i = u.instr .parse) → Completed .parse (s.start .nothing) t := by
    rintro (rfl | ⟨u, rfl⟩)
    · exact hfam rfl nofun
    · exact hfam (family_instr u .parse) nofun
  have hdecode : (i = .msgDecode ∨ ∃ u : Tag, i = u.instr .decode) → Completed .decode (s.start .ofSeq) t := by
    rintro (rfl | ⟨u, rfl⟩)
    · exact hfam rfl nofun
    · exact hfam (family_instr u .decode) nofun
  refine ⟨fun hi => ?hexDecode, fun hi => ?hexEncode, ?crc, ?fromcode, ?tocode, ?frmEncode, ?encode,
    fun hi => (parse_completed (hparse hi)).1, fun hi => (decode_completed (hdecode hi)).1, ?message⟩
  case hexDecode =>
    have hi : i.family = .hexDecode := by rcases hi with rfl | rfl | rfl | rfl | rfl <;> rfl
    obtain ⟨v, rfl⟩ := hfam hi nofun
    exact ⟨rfl, rfl, rfl, s.start_noMessage⟩
  case hexEncode =>
    have hi : i.family = .hexEncode := by rcases hi with rfl | rfl | rfl | rfl | rfl <;> rfl
    obtain ⟨x, hx, rfl⟩ := hfam hi nofun
    exact ⟨rfl, hx, rfl, rfl, rfl, rfl, State.fv_start (k := .ofVal) rfl s⟩
  case crc =>
    rintro rfl
    obtain ⟨x, rfl⟩ := hfam (f := .crc) rfl nofun
    exact ⟨rfl, hex16_length _, s.start_noMessage⟩
  case fromcode =>
    rintro rfl
    obtain ⟨u, rfl⟩ := hfam (f := .fromcode) rfl nofun
    exact ⟨rfl, rfl, rfl, rfl, rfl, rfl, rfl, State.fv_start (k := .nothing) rfl s⟩
  case tocode =>
    rintro rfl
    obtain ⟨u, hu, rfl⟩ := hfam (f := .tocode) rfl nofun
    have hu : s.tag = some u := hu
    refine ⟨rfl, ?_, rfl, hex16_length _, rfl, rfl, State.fv_start (k := .ofTag) rfl s⟩
    rw [hu]
    rfl
  case frmEncode =>
    rintro rfl
    exact encode_completed (exec_parsed h hst)
  case encode =>
    rintro u rfl
    have hres := exec_parsed h hst
    rw [family_instr, started_encode] at hres
    exact encode_completed hres
  case message =>
    intro hi
    have hi : (i = .frmParse ∨ ∃ u : Tag, i = u.instr .parse) ∨ (i = .msgDecode ∨ ∃ u : Tag, i = u.instr .decode) := by
      rcases hi with hi | hi | ⟨u, hi | hi⟩
      · exact .inl (.inl hi)
      · exact .inr (.inl hi)
      · exact .inl (.inr ⟨u, hi⟩)
      · exact .inr (.inr ⟨u, hi⟩)
    rcases hi with hi | hi
    · exact (parse_completed (hparse hi)).2
    · exact (decode_completed (hdecode hi)).2

end Machine
end Sys2Proof
end

section
/-! PROOFS. What `ERR.FIELD` names (60_exceptions.md R261, R262; 10_state.md R25): for each check the fields its errors can
name, and for each family of commands the fields they read or write. -/

namespace Sys2Proof.Machine

/-- The errors that the checks raise name only fields of which `q` holds, where they name one. -/
def NamesOnly {α : Type} (q : ErrField → Prop) (x : Except Stop α) : Prop :=
  ∀ e f, x = .error (.raise e) → e.field = some f → q f

section Checks

variable {α β : Type} {q : ErrField → Prop}

theorem CodecError.field_eq_none {e : CodecError} (h : e.kind ∈ [3, 4, 5]) : e.field = none := by
  cases e with
  | malformedHex _ | fieldOverflow _ =>
    rw [CodecError.kind] at h
    exact absurd h (by decide)
  | payloadMismatch _ _ _ | unknownMessageType _ | checksumMismatch => rfl

/-- Checks that raise none of the errors with a field name none. -/
theorem NamesOnly.of_kinds {x : Except Stop α} (h : RaisesOnly [3, 4, 5] x) : NamesOnly q x := fun e f hx hf => by
  rw [CodecError.field_eq_none (h e hx)] at hf
  cases hf

theorem NamesOnly.bind {x : Except Stop α} {f : α → Except Stop β} (hx : NamesOnly q x) (hf : ∀ a, NamesOnly q (f a)) :
    NamesOnly q (x >>= f) := fun e fld he hfld =>
  match bind_eq_error.mp he with
  | .inl h => hx e fld h hfld
  | .inr ⟨a, _, h⟩ => hf a e fld h hfld

theorem NamesOnly.raise_malformedHex {fld : ErrField} (h : q fld) :
    NamesOnly q (raise (.malformedHex fld) : Except Stop α) := by
  rintro _ _ ⟨⟩ ⟨⟩
  exact h

theorem NamesOnly.raise_fieldOverflow {fld : ErrField} (h : q fld) :
    NamesOnly q (raise (.fieldOverflow fld) : Except Stop α) := by
  rintro _ _ ⟨⟩ ⟨⟩
  exact h

theorem NamesOnly.require (c : Prop) [Decidable c] {fld : ErrField} (h : q fld) :
    NamesOnly q (require c (.raise (.malformedHex fld))) := fun e f he hf => by
  obtain ⟨-, he⟩ := require_eq_error.mp he
  cases he
  cases hf
  exact h

theorem NamesOnly.decodeField {fld : ErrField} (h : q fld) (t : List Byte) : NamesOnly q (decodeField fld t) := by
  unfold Machine.decodeField
  split
  · exact .of_kinds (.ok _)
  · exact .raise_malformedHex h

theorem NamesOnly.encodeField {fld : ErrField} (h : q fld) (v w : Nat) : NamesOnly q (encodeField fld v w) := by
  unfold Machine.encodeField
  split
  · exact .of_kinds (.ok _)
  · exact .raise_fieldOverflow h

theorem NamesOnly.encKind {j : Nat} (h : q (.payload j)) (k : Kind) (v : Word) : NamesOnly q (encKind j k v) := by
  cases k with
  | bool =>
    simp only [Machine.encKind]
    split
    · exact .of_kinds (.ok _)
    · split
      · exact .of_kinds (.ok _)
      · exact .of_kinds (.refuse _)
  | _ =>
    simp only [Machine.encKind]
    exact .encodeField h _ _

/-- Only a field that has a register is rendered. -/
theorem NamesOnly.render {j : Nat} {fs : List (Option Word)} (h : ∀ n, n < j + fs.length → q (.payload n)) (ks : List Kind) :
    NamesOnly q (render j ks fs) := by
  induction ks generalizing j fs with
  | nil => exact .of_kinds (.ok _)
  | cons k ks ih =>
    match fs with
    | [] | none :: _ => exact .of_kinds (.refuse _)
    | some v :: fs =>
      rw [List.length_cons] at h
      exact .bind (.encKind (h j (by omega)) k v) fun _ =>
        .bind (ih fun n hn => h n (by omega)) fun _ => .of_kinds (.ok _)

theorem NamesOnly.frameBody (t : Tag) {s : State} (h : ∀ n, n < s.f.length → q (.payload n)) :
    NamesOnly q (frameBody t s) := by
  unfold Machine.frameBody
  split
  · exact .of_kinds (.refuse _)
  · exact .bind (.of_kinds (.macField _ _)) fun _ => .bind (.render (by simpa using h) _) fun _ =>
      .bind (.of_kinds (.require_refuse _ _)) fun _ => .of_kinds (.ok _)

theorem NamesOnly.splitFrame {select : BitVec 16 → Except Stop (Tag × Grammar)} (htype : q .typeCode) (hseq : q .seq)
    (hcrc : q .crc) (hsel : ∀ c, RaisesOnly [3, 4, 5] (select c)) (n : Nat) (x : List Byte) :
    NamesOnly q (splitFrame select n x) :=
  .bind (.require _ htype) fun _ => .bind (.decodeField htype _) fun _ => .bind (.of_kinds (hsel _)) fun _ =>
  .bind (.require _ hseq) fun _ => .bind (.decodeField hseq _) fun _ => .bind (.require _ hcrc) fun _ =>
  .bind (.of_kinds (.matchPayload (by decide) _ _ _)) fun _ => .bind (.of_kinds (.require_refuse _ _)) fun _ =>
  .bind (.decodeField hcrc _) fun _ => .of_kinds (.ok _)

theorem RaisesOnly.selectOnly {ks : List (BitVec 3)} (h : 4 ∈ ks) (r : Registry) (vt : VariantTable) (t : Tag)
    (c : BitVec 16) : RaisesOnly ks (selectOnly r vt t c) :=
  .bind (.require_refuse _ _) fun _ => .bind (.dispatchTag h vt t c) fun _ => .ok _

end Checks

/-! ### The commands -/

/-- The error that an outcome leaves in `ERR` names only a field of which `q` holds, where it names one. -/
def ErrorNames (q : ErrField → Prop) (o : Host.Outcome State Fault Refusal) : Prop :=
  ∀ t e f, o = .next t → t.err = some e → e.field = some f → q f

section Commands

variable {α : Type} {q : ErrField → Prop}

/-- The fields a command names are those its checks name, when its writes leave no error with a field. -/
theorem NamesOnly.finish {s : State} {kept : Kept} {x : Except Stop α} {k : α → State} (hx : NamesOnly q x)
    (hk : ∀ a e, (k a).err = some e → e.field = none) : ErrorNames q (finish (s.start kept) x k) := by
  intro t e f ht he hf
  rcases finish_eq_next.mp ht with ⟨a, -, rfl⟩ | ⟨stop, hstop, rfl⟩
  · rw [hk a e he] at hf
    cases hf
  · cases stop with
    | raise e' => cases he; exact hx e f hstop hf
    | refuse r => cases he

theorem hexEncode_names (h : q .value) (n : Nat) (pick : Word → Nat) (s : State) : ErrorNames q (hexEncode n pick s) :=
  NamesOnly.finish (.bind (.of_kinds (.needValue _ _)) fun _ => .encodeField h _ _) nofun

theorem hexDecode_names (h : q .value) (n : Nat) (s : State) : ErrorNames q (hexDecode n s) :=
  NamesOnly.finish (.bind (.of_kinds (.fixedInput n s)) fun _ => .decodeField h _) nofun

theorem parseFrame_names {select : BitVec 16 → Except Stop (Tag × Grammar)} (htype : q .typeCode) (hseq : q .seq)
    (hcrc : q .crc) (hsel : ∀ c, RaisesOnly [3, 4, 5] (select c)) (s : State) : ErrorNames q (parseFrame select s) :=
  NamesOnly.finish (.bind (.of_kinds (.input s)) fun _ => .splitFrame htype hseq hcrc hsel _ _)
    fun m e he => by rw [verify_err rfl he]; rfl

end Commands

/-- The fields that a family names in `ERR.FIELD`, in a block with `n` field registers. -/
def Family.names (n : Nat) : Family → ErrField → Prop
  | .hexEncode, f | .hexDecode, f => f = .value
  | .fromcode, f | .decode, f => f = .typeCode
  | .parse, f => f = .typeCode ∨ f = .seq ∨ f = .crc
  | .encode, f => ∃ j, f = .payload j ∧ j < n
  | .crc, _ | .tocode, _ => False

theorem names_hexEncode (n : Nat) : Family.names n .hexEncode .value := rfl

theorem names_hexDecode (n : Nat) : Family.names n .hexDecode .value := rfl

theorem names_fromcode (n : Nat) : Family.names n .fromcode .typeCode := rfl

theorem names_decode (n : Nat) : Family.names n .decode .typeCode := rfl

theorem execVariant_names (u : Tag) (op : MsgOp) (s : State) :
    ErrorNames (Family.names s.f.length op.family) (execVariant u op s) := by
  cases op with
  | encode => exact NamesOnly.finish (.frameBody u fun n hn => ⟨n, rfl, hn⟩) nofun
  | parse => exact parseFrame_names (.inl rfl) (.inr (.inl rfl)) (.inr (.inr rfl)) (fun _ => .selectOnly (by decide) _ _ _ _) s
  | decode =>
    exact NamesOnly.finish (.bind (.of_kinds (.input s)) fun _ => .bind (.of_kinds (.dispatchTag (by decide) _ _ _)) fun _ =>
      .of_kinds (.matchMessage (by decide) _ _ _ _)) nofun

/-- The error of a command names a field that its family reads or writes. -/
theorem exec_names (i : Instr) (s : State) : ErrorNames (Family.names s.f.length i.family) (exec i s) := by
  rcases i.command_or_variant with hi | ⟨u, op, rfl⟩
  · cases i
    case hexEncu =>
      exact NamesOnly.finish (.bind (.of_kinds (.needValue _ _)) fun _ => .bind (.of_kinds (.needValue _ _)) fun _ =>
        .bind (.of_kinds (.require_refuse _ _)) fun _ => .encodeField (names_hexEncode _) _ _) nofun
    case hexDecu =>
      exact NamesOnly.finish (.bind (.of_kinds (.require_refuse _ _)) fun _ => .bind (.of_kinds (.input s)) fun _ =>
        .decodeField (names_hexDecode _) _) nofun
    case hexEncf32 | hexEncds | hexEncdm | hexEncmac => exact hexEncode_names (names_hexEncode _) _ _ s
    case hexDecf32 | hexDecds | hexDecdm | hexDecmac => exact hexDecode_names (names_hexDecode _) _ s
    case crcCompute => exact NamesOnly.finish (.of_kinds (.input s)) nofun
    case regTocode => exact NamesOnly.finish (.of_kinds (.needValue _ _)) nofun
    case regFromcode =>
      exact NamesOnly.finish (.bind (.of_kinds (.fixedInput 4 s)) fun _ => .decodeField (names_fromcode _) _)
        fun c e he => by rw [identify_err rfl he]; rfl
    case frmEncode =>
      exact NamesOnly.finish (.bind (.of_kinds (.needValue _ _)) fun t => .frameBody t fun n hn => ⟨n, rfl, hn⟩) nofun
    case frmParse =>
      exact parseFrame_names (.inl rfl) (.inr (.inl rfl)) (.inr (.inr rfl)) (fun _ => .dispatch (by decide) _ _ _) s
    case msgDecode =>
      exact NamesOnly.finish (.bind (.of_kinds (.require_refuse _ _)) fun _ => .bind (.of_kinds (.input s)) fun _ =>
        .bind (.decodeField (names_decode _) _) fun _ => .bind (.of_kinds (.dispatch (by decide) _ _ _)) fun _ =>
        .bind (.of_kinds (.matchMessage (by decide) _ _ _ _)) fun _ => .of_kinds (.ok _)) nofun
    all_goals cases hi
  · rw [exec_instr, family_instr]
    exact execVariant_names u op s

/-- The kinds of error that the forms of a variant raise (log 10). -/
def MsgOp.errorKinds : MsgOp → List (BitVec 3)
  | .encode => [2]
  | .parse => [1, 3, 4, 5]
  | .decode => [3, 4]

theorem exec_instr_failsOnly (u : Tag) (op : MsgOp) (s : State) : FailsOnly (MsgOp.errorKinds op) (exec (u.instr op) s) := by
  rw [exec_instr]
  cases op with
  | encode => exact RaisesOnly.finish (.frameBody (by decide) u _) nofun
  | parse =>
    refine RaisesOnly.finish (.bind (.input s) fun _ => .splitFrame (by decide) (by decide)
      (fun _ => .selectOnly (by decide) _ _ _ _) _ _) fun m e he => ?_
    rw [verify_err rfl he]
    decide
  | decode =>
    exact RaisesOnly.finish (.bind (.input s) fun _ => .bind (.dispatchTag (by decide) _ _ _) fun _ =>
      .matchMessage (by decide) _ _ _ _) nofun

/-- Settles O49: the field named is one of the family's (`exec_names`), and the forms of a variant raise the errors of
`MsgOp.errorKinds`. -/
theorem errorFieldsNameWhatWasRead : Obligations.ErrorFieldsNameWhatWasRead := by
  intro i s t e h he
  have hnames : ∀ {f : ErrField} {fam : Family}, e.field = some f → i.family = fam → Family.names s.f.length fam f :=
    fun hf hi => hi ▸ exec_names i s t e _ h he hf
  have hkind : ∀ (u : Tag) (op : MsgOp), i = u.instr op → e.kind ∈ MsgOp.errorKinds op := by
    rintro u op rfl
    exact exec_instr_failsOnly u op s t e h he
  refine ⟨?_, ?_, fun u => ⟨fun hi => ?_, fun hi => ?_, fun hi => ?_⟩⟩
  · rintro f rfl
    refine ⟨fun hi => hnames (fam := .hexDecode) rfl ?_, fun hi => ?_, fun hi => hnames (fam := .parse) rfl ?_⟩
    · simp only [List.mem_cons, List.not_mem_nil, or_false] at hi
      rcases hi with rfl | rfl | rfl | rfl | rfl <;> rfl
    · simp only [List.mem_cons, List.not_mem_nil, or_false] at hi
      rcases hi with rfl | rfl
      · exact hnames (fam := .fromcode) rfl rfl
      · exact hnames (fam := .decode) rfl rfl
    · rcases hi with rfl | ⟨u, rfl⟩
      · rfl
      · exact family_instr u .parse
  · rintro f rfl
    refine ⟨fun hi => hnames (fam := .hexEncode) rfl ?_, fun hi => hnames (fam := .encode) rfl ?_⟩
    · simp only [List.mem_cons, List.not_mem_nil, or_false] at hi
      rcases hi with rfl | rfl | rfl <;> rfl
    · rcases hi with rfl | ⟨u, rfl⟩
      · rfl
      · exact family_instr u .encode
  · exact List.mem_singleton.mp (hkind u .encode hi)
  · intro h2
    have hk := hkind u .parse hi
    rw [h2] at hk
    exact absurd hk (by decide)
  · have hk := hkind u .decode hi
    simpa [MsgOp.errorKinds] using hk

end Sys2Proof.Machine
end

section
/-! PROOFS. A well-formed input record is never refused (60_exceptions.md R275). For each check the condition under which it
does not refuse (`Accepts`), and for each command that the well-formedness of its record gives that condition. -/

namespace Sys2Proof.Machine

/-- The checks do not refuse: they succeed, or raise an error of the document. -/
def Accepts {α : Type} (x : Except Stop α) : Prop := ∀ r, x ≠ .error (.refuse r)

/-- An outcome that is a result or an error of the document. -/
def Answers (o : Host.Outcome State Fault Refusal) : Prop := ∃ t, o = .next t ∧ (t.st = .parsed ∨ t.st = .failed)

section Checks

variable {α β : Type}

theorem Accepts.ok (a : α) : Accepts (.ok a) := nofun

theorem Accepts.raise (e : CodecError) : Accepts (raise e : Except Stop α) := nofun

theorem Accepts.bind {x : Except Stop α} {f : α → Except Stop β} (hx : Accepts x) (hf : ∀ a, x = .ok a → Accepts (f a)) :
    Accepts (x >>= f) := fun r hr =>
  match bind_eq_error.mp hr with
  | .inl h => hx r h
  | .inr ⟨a, ha, h⟩ => hf a ha r h

theorem Accepts.require_raise (c : Prop) [Decidable c] (e : CodecError) : Accepts (require c (.raise e)) := fun _ hr => by
  cases (require_eq_error.mp hr).2

theorem Accepts.require {c : Prop} [Decidable c] (h : c) (e : Stop) : Accepts (require c e) := by
  rw [require_pos h]
  exact .ok ()

theorem Accepts.needValue {x : Option α} (h : x.isSome = true) (r : Reg) : Accepts (needValue r x) := by
  obtain ⟨v, rfl⟩ := Option.isSome_iff_exists.mp h
  exact .ok v

theorem Accepts.decodeField (fld : ErrField) (t : List Byte) : Accepts (decodeField fld t) := by
  unfold Machine.decodeField
  split
  · exact .ok _
  · exact .raise _

theorem Accepts.encodeField (fld : ErrField) (v w : Nat) : Accepts (encodeField fld v w) := by
  unfold Machine.encodeField
  split
  · exact .ok _
  · exact .raise _

theorem Accepts.input {s : State} {x : List Byte} (h : s.HoldsInput x) : Accepts s.input := by
  rw [h.input]
  exact .ok x

theorem Accepts.fixedInput {s : State} {x : List Byte} {n : Nat} (h : s.HoldsInput x) (hlen : x.length = n) :
    Accepts (s.fixedInput n) := by
  rw [h.fixedInput hlen]
  exact .ok x

theorem Accepts.encKind {k : Kind} {v : Word} (h : k.admits v = true) (j : Nat) : Accepts (encKind j k v) := by
  by_cases hk : k = .bool
  · subst hk
    have hfit : Kind.bool.fits v := Kind.fits_bool_iff.mpr (by simpa [Kind.admits] using h)
    rw [encKind_of_fits j hfit]
    exact .ok _
  · rw [encKind_eq_encodeField hk]
    exact .encodeField _ _ _

theorem Accepts.render {ks : List Kind} {fs : List (Option Word)} (h : fieldsAdmitted ks fs = true) (j : Nat)
    (rest : List (Option Word)) : Accepts (render j ks (fs ++ rest)) := by
  induction ks generalizing j fs with
  | nil => exact .ok _
  | cons k ks ih =>
    match fs with
    | [] | none :: _ => cases h
    | some v :: fs =>
      obtain ⟨hv, hfs⟩ := Bool.and_eq_true_iff.mp (show (k.admits v && fieldsAdmitted ks fs) = true from h)
      exact .bind (.encKind hv j) fun _ _ => .bind (ih hfs (j + 1)) fun _ _ => .ok _

theorem Accepts.macField {g : Grammar} {m : Option Word} (h : g.hasMac = true → m.isSome = true) :
    Accepts (macField g m) := by
  rw [macField_of_isSome h]
  exact .ok _

theorem Accepts.matchMessage {g : Grammar} {n : Nat} (hpb : Kind.pbaddr ∉ g.fields) (hn : g.fields.length ≤ n)
    (c : BitVec 16) (p : List Byte) : Accepts (matchMessage g c n p) := by
  by_cases h : p.length ≠ g.explen ∨ allHex p = false
  · rw [matchMessage_mismatch h]
    exact .raise _
  · obtain ⟨hlen, hhex⟩ := not_or.mp h
    rw [matchMessage_of_digits hpb hn (not_not.mp hlen) (Bool.eq_true_of_not_eq_false hhex)]
    exact .ok _

theorem Accepts.matchPayload {g : Grammar} (hpb : Kind.pbaddr ∉ g.fields) (c : BitVec 16) (p : List Byte) :
    Accepts (matchPayload g c p) := fun r hr =>
  Accepts.matchMessage hpb (Nat.le_refl _) c p r (by rw [Machine.matchMessage, hr, error_bind])

end Checks

/-! ### Encoding -/

/-- A message that is admitted has every part of its frame, and the frame fits the output buffer. -/
theorem Accepts.frameBody {t : Tag} {s : State} {o : Operands} (h : messageAdmitted s.vt t o = true) :
    Accepts (frameBody t (s.load o)) := by
  unfold messageAdmitted at h
  split at h
  next => cases h
  next g hg =>
    obtain ⟨h, hlen⟩ := Bool.and_eq_true_iff.mp h
    obtain ⟨hmac, hfields⟩ := Bool.and_eq_true_iff.mp h
    have hmac : g.hasMac = true → (s.load o).mac.isSome = true := fun h => by simpa [h] using hmac
    have hseq : (seqField ((s.load o).vt.get t) (s.load o).seq).length =
        if (s.vt.get t).seqTx && o.seq.isSome then 4 else 0 := by
      rw [seqField_length]
      exact if_congr (by simp [State.seqv]) rfl rfl
    have hlen := of_decide_eq_true hlen
    have hg' : ((s.load o).vt.get t).grammar = some g := hg
    simp only [Machine.frameBody, hg']
    refine .bind (.macField hmac) fun m hm => .bind (.render hfields 0 _) fun p hp => .bind (.require ?_ _) fun _ _ => .ok _
    rw [List.length_append, List.length_append, List.length_append, hex16_length, hseq, macField_length hm,
      render_length hp]
    rw [Grammar.explen_eq] at hlen
    omega

/-! ### Decoding -/

section Decoding

variable {r : Registry} {vt : VariantTable} {n : Nat} {x : List Byte}

theorem Accepts.dispatchTag {t : Tag} (h : dispatchAdmitted vt t = true) (c : BitVec 16) :
    Accepts (dispatchTag vt t c) := by
  by_cases hdir : (vt.get t).dir = some .tx
  · rw [dispatchTag_of_tx hdir]
    exact .raise _
  · have hsome : (vt.get t).grammar.isSome = true := by simpa [dispatchAdmitted, hdir] using h
    obtain ⟨g, hg⟩ := Option.isSome_iff_exists.mp hsome
    rw [dispatchTag_eq_ok.mpr ⟨hdir, hg⟩]
    exact .ok g

theorem Accepts.dispatch (h : typeAdmitted r (dispatchAdmitted vt) x = true) {c : Nat} (hc : decU (x.take 4) = some c) :
    Accepts (dispatch r vt (BitVec.ofNat 16 c)) := by
  simp only [typeAdmitted, hc] at h
  cases hl : r.lookup (BitVec.ofNat 16 c) with
  | none => rw [dispatch_of_lookup_none hl]; exact .raise _
  | some t =>
    simp only [hl] at h
    simp only [Machine.dispatch, hl]
    exact .bind (.dispatchTag h _) fun _ _ => .ok _

theorem Accepts.selectOnly {t : Tag} {c : BitVec 16} (hc : c = r.get t) (h : dispatchAdmitted vt t = true) :
    Accepts (selectOnly r vt t c) :=
  .bind (.require hc _) fun _ _ => .bind (.dispatchTag h c) fun _ _ => .ok _

/-- A dispatch gives grammars that decode any payload of the right form, with as many fields as there are registers. -/
def SelectsDecodable (n : Nat) (select : BitVec 16 → Except Stop (Tag × Grammar)) : Prop :=
  ∀ c t g, select c = .ok (t, g) → Kind.pbaddr ∉ g.fields ∧ g.fields.length ≤ n

theorem decodable_of_dispatchTag (hwf : VariantTable.wf n vt = true) {t : Tag} {c : BitVec 16} {g : Grammar}
    (h : dispatchTag vt t c = .ok g) : Kind.pbaddr ∉ g.fields ∧ g.fields.length ≤ n :=
  have hg := (dispatchTag_eq_ok.mp h).2
  ⟨VariantTable.pbaddr_not_mem hwf hg (dir_of_dispatchTag h), VariantTable.fields_length_le hwf hg⟩

theorem selectsDecodable_dispatch (hwf : VariantTable.wf n vt = true) (r : Registry) :
    SelectsDecodable n (Machine.dispatch r vt) := fun _ _ _ h =>
  decodable_of_dispatchTag hwf (dispatch_eq_ok.mp h).2

theorem selectsDecodable_selectOnly (hwf : VariantTable.wf n vt = true) (r : Registry) (t : Tag) :
    SelectsDecodable n (Machine.selectOnly r vt t) := fun _ _ _ h => by
  obtain ⟨-, -, hd⟩ := selectOnly_eq_ok.mp h
  exact decodable_of_dispatchTag hwf hd

theorem Accepts.splitFrame {select : BitVec 16 → Except Stop (Tag × Grammar)} (hdec : SelectsDecodable n select)
    (hsel : 4 ≤ x.length → ∀ c, decU (x.take 4) = some c → Accepts (select (BitVec.ofNat 16 c))) :
    Accepts (splitFrame select n x) := by
  refine .bind (.require_raise _ _) fun _ h4 => .bind (.decodeField _ _) fun c hc =>
    .bind (hsel (require_eq_ok.mp h4) c (decodeField_eq_ok.mp hc)) fun ⟨t, g⟩ hg => ?_
  obtain ⟨hpb, hn⟩ := hdec _ t g hg
  refine .bind (.require_raise _ _) fun _ _ => .bind (.decodeField _ _) fun _ _ => .bind (.require_raise _ _) fun _ _ =>
    .bind (.matchPayload hpb _ _) fun ⟨m, fs⟩ hm => .bind (.require ?_ _) fun _ _ => .bind (.decodeField _ _) fun _ _ => .ok _
  obtain ⟨-, -, -, hfs⟩ := matchPayload_eq_ok.mp hm
  exact (extract_length hfs).symm ▸ hn

end Decoding

/-! ### The commands -/

section Commands

variable {α : Type} {s : State} {x : List Byte}

theorem Accepts.finish {s0 : State} {y : Except Stop α} {k : α → State} (hy : Accepts y)
    (hk : ∀ a, (k a).st = .parsed ∨ (k a).st = .failed) : Answers (finish s0 y k) := by
  cases hyc : y with
  | ok a => exact ⟨k a, rfl, hk a⟩
  | error e =>
    cases e with
    | raise e => exact ⟨s0.fail e, rfl, .inr rfl⟩
    | refuse r => exact absurd hyc (hy r)

theorem hexEncode_answers (hv : s.val.isSome = true) (n : Nat) (pick : Word → Nat) : Answers (hexEncode n pick s) :=
  Accepts.finish (.bind (.needValue hv _) fun _ _ => .encodeField _ _ _) fun _ => .inl rfl

theorem hexDecode_answers {n : Nat} (hx : s.HoldsInput x) (hlen : x.length = n) : Answers (hexDecode n s) :=
  Accepts.finish (.bind (.fixedInput hx hlen) fun _ _ => .decodeField _ _) fun _ => .inl rfl

theorem verify_st (m : InboundFrame) (s0 : State) : (verify m s0).st = .parsed ∨ (verify m s0).st = .failed := by
  unfold verify
  split
  · exact .inl rfl
  · exact .inr rfl

theorem identify_st (c : BitVec 16) (s0 : State) : (identify c s0).st = .parsed ∨ (identify c s0).st = .failed := by
  unfold identify
  split
  · exact .inr rfl
  · exact .inl rfl

theorem parseFrame_answers {select : BitVec 16 → Except Stop (Tag × Grammar)} (hx : s.HoldsInput x)
    (hdec : SelectsDecodable s.f.length select)
    (hsel : 4 ≤ x.length → ∀ c, decU (x.take 4) = some c → Accepts (select (BitVec.ofNat 16 c))) :
    Answers (parseFrame select s) := by
  rw [parseFrame_of_input hx]
  exact Accepts.finish (.splitFrame hdec hsel) fun m => verify_st m _

theorem execMsgDecode_answers (hwf : VariantTable.wf s.f.length s.vt = true) (hx : s.HoldsInput x) (h4 : 4 ≤ x.length)
    (htype : typeAdmitted s.reg (dispatchAdmitted s.vt) x = true) : Answers (execMsgDecode s) := by
  have hilen : 4 ≤ s.ilen := hx.1 ▸ h4
  rw [execMsgDecode, require_pos hilen, ok_bind, hx.input, ok_bind]
  refine Accepts.finish (.bind (.decodeField _ _) fun c hc =>
    .bind (.dispatch htype (decodeField_eq_ok.mp hc)) fun ⟨t, g⟩ hd => ?_) fun _ => .inl rfl
  obtain ⟨hpb, hn⟩ := selectsDecodable_dispatch hwf s.reg _ t g hd
  exact .bind (.matchMessage hpb hn _ _) fun _ _ => .ok _

theorem decodeAs_answers {t : Tag} (hwf : VariantTable.wf s.f.length s.vt = true) (hx : s.HoldsInput x)
    (ht : dispatchAdmitted s.vt t = true) : Answers (decodeAs t s) := by
  rw [decodeAs, hx.input, ok_bind]
  refine Accepts.finish (.bind (.dispatchTag ht _) fun g hd => ?_) fun _ => .inl rfl
  obtain ⟨hpb, hn⟩ := decodable_of_dispatchTag hwf hd
  exact .matchMessage hpb hn _ _

end Commands

theorem State.load_holdsInput {o : Operands} (h : o.ib.length ≤ Config.lMax) (s : State) : (s.load o).HoldsInput o.ib :=
  ⟨rfl, h, Memory.readString_ofString o.ib⟩

theorem Instr.lengths_of_wf {r : Registry} {vt : VariantTable} {nf : Nat} {i : Instr} {o : Operands}
    (h : i.wf r vt nf o = true) : o.fields.length ≤ nf ∧ o.ib.length ≤ Config.lMax := by
  simp only [Instr.wf, Bool.and_eq_true, decide_eq_true_eq] at h
  exact h.1

theorem Instr.wf_instr (r : Registry) (vt : VariantTable) (nf : Nat) (t : Tag) (op : MsgOp) (o : Operands) :
    (t.instr op).wf r vt nf o =
      (decide (o.fields.length ≤ nf) && decide (o.ib.length ≤ Config.lMax) && Tag.admits r vt t op o) := by
  cases t <;> rfl

theorem execVariant_answers {s : State} {o : Operands} {t : Tag} {op : MsgOp}
    (hwf : VariantTable.wf (s.load o).f.length s.vt = true) (hlen : o.ib.length ≤ Config.lMax)
    (h : Tag.admits s.reg s.vt t op o = true) : Answers (execVariant t op (s.load o)) := by
  have hx := State.load_holdsInput hlen s
  cases op with
  | encode =>
    have hbody : Accepts (frameBody t ((s.load o).asVariant t)) := Accepts.frameBody (s := s) h
    exact Accepts.finish hbody fun _ => .inl rfl
  | parse =>
    refine parseFrame_answers hx (selectsDecodable_selectOnly hwf _ t) fun h4 c hc => ?_
    simp only [Tag.admits, hc, Bool.or_eq_true, decide_eq_true_eq, Bool.and_eq_true, beq_iff_eq] at h
    obtain ⟨hcode, hadm⟩ := h.resolve_left (Nat.not_lt.mpr h4)
    exact .selectOnly hcode hadm
  | decode => exact decodeAs_answers hwf hx h

/-- Settles O54: every check of a command accepts a record that is well-formed for it. -/
theorem wellFormedCommandsComplete : Obligations.WellFormedCommandsComplete := by
  intro i s o hvt hwf
  obtain ⟨hfields, hlen⟩ := Instr.lengths_of_wf hwf
  have hx := State.load_holdsInput hlen s
  have hloaded : VariantTable.wf (s.load o).f.length s.vt = true := by
    rw [(State.tables_eq.mp (State.load_tables hfields)).2.2]
    exact hvt
  show Answers _
  rcases i.command_or_variant with hi | ⟨t, op, rfl⟩
  · cases i
    all_goals simp only [Instr.wf, Bool.and_eq_true, decide_eq_true_eq] at hwf
    all_goals obtain ⟨-, hwf⟩ := hwf
    case hexEncu =>
      obtain ⟨hv, hw⟩ := hwf
      split at hw
      next w hw' =>
        simp only [Bool.and_eq_true, decide_eq_true_eq] at hw
        refine Accepts.finish (.bind (.needValue hv _) fun v _ => .bind (.needValue (by rw [State.load_w, hw']; rfl) _)
          fun w' hw'' => .bind (.require ?_ _) fun _ _ => .encodeField _ _ _) fun _ => .inl rfl
        obtain rfl : w = w' := Option.some.inj (hw'.symm.trans (needValue_eq_ok.mp hw''))
        exact hw
      next => cases hw
    case hexDecu =>
      exact Accepts.finish (.bind (.require hwf _) fun _ _ => .bind (.input hx) fun _ _ => .decodeField _ _) fun _ => .inl rfl
    case hexEncf32 | hexEncds | hexEncdm | hexEncmac => exact hexEncode_answers (s := s.load o) hwf _ _
    case hexDecf32 | hexDecds | hexDecdm | hexDecmac => exact hexDecode_answers hx hwf
    case crcCompute => exact Accepts.finish (.input hx) fun _ => .inl rfl
    case regFromcode =>
      exact Accepts.finish (.bind (.fixedInput hx hwf) fun _ _ => .decodeField _ _) fun c => identify_st _ _
    case regTocode => exact Accepts.finish (.needValue (x := (s.load o).tag) hwf _) fun _ => .inl rfl
    case frmEncode =>
      refine Accepts.finish (.bind (.needValue ?_ _) fun t ht => .frameBody ?_) fun _ => .inl rfl
      · cases ht : o.tag with
        | none => rw [ht] at hwf; cases hwf
        | some t => rw [State.load_tag, ht]; rfl
      · have ht : o.tag = some t := needValue_eq_ok.mp ht
        rw [ht] at hwf
        exact hwf
    case frmParse =>
      refine parseFrame_answers hx (selectsDecodable_dispatch hloaded _) fun h4 c hc => ?_
      simp only [Bool.or_eq_true, decide_eq_true_eq] at hwf
      exact .dispatch (hwf.resolve_left (Nat.not_lt.mpr h4)) hc
    case msgDecode => exact execMsgDecode_answers hloaded hx hwf.1 hwf.2
    all_goals cases hi
  · rw [Instr.wf_instr, Bool.and_eq_true] at hwf
    rw [exec_instr]
    exact execVariant_answers hloaded hlen hwf.2

end Sys2Proof.Machine
end
